-- ==== Sys2Proof/Word.lean ====
section
/-!
DEFINITION. The word types of CAE-CORE: bytes on the bus, 16-bit words (raw words, readings and micro-operation words) and
8-bit ROM addresses. Every value is an unsigned bit pattern (R13, R699).
-/

namespace Sys2Proof

/-- One byte of the acquisition bus, or the `B` field of a micro-operation. -/
abbrev Byte := BitVec 8

/-- A 16-bit word: a raw word, a reading, or a micro-operation word (R8, R301). -/
abbrev Word := BitVec 16

/-- An absolute ROM address (R110, R304). -/
abbrev Addr := BitVec 8

end Sys2Proof
end

