-- ==== Sys2Proof/Syntax.lean ====
section
/-!
DEFINITION. The micro-operations of CAE-CORE, one constructor for each row of spec/opcode_table.json (R307), with the
operand types of R302, R303, R305 and R306.
-/

namespace Sys2Proof

/-- The command selector `c` of XFER (R305). -/
inductive Command where
  /-- `c = 0`, sends `CMD_READ`. -/
  | read
  /-- `c = 1`, sends `CMD_READ_TURN`. -/
  | readTurn
  /-- `c = 2`, sends `CMD_ZERO_SET`. -/
  | zeroSet
  deriving DecidableEq, Repr

/-- The delay selector `d` of WAIT (R306). -/
inductive Delay where
  | settle
  | turn
  | hold
  | csIdle
  | cycle
  | zero
  deriving DecidableEq, Repr

/-- The word selector `w` (R302, R303): 0 the position word, 1 the turn word. -/
inductive WordSel where
  | position
  | turn
  deriving DecidableEq, Repr

/-- The byte selector `k` (R302): 1 the most significant byte, 0 the least significant byte. -/
inductive ByteSel where
  | hi
  | lo
  deriving DecidableEq, Repr

/-- The micro-operations (R307). -/
inductive Instr where
  /-- CSA: assert the chip select of the current channel (R401). -/
  | csa
  /-- CSD: deassert the chip select of the current channel (R411). -/
  | csd
  /-- XFER: send command `c`; store the received byte in `WB[w][k]` unless `discard` (R461). -/
  | xfer (c : Command) (discard : Bool) (w : WordSel) (k : ByteSel)
  /-- WAIT: hold the sequencer for the delay `d` (R421). -/
  | wait (d : Delay)
  /-- CHK: the parity validity of word `w` (R501). -/
  | chk (w : WordSel)
  /-- LED: drive the indicator of the current channel (R601). -/
  | led
  /-- NRM: normalize word `w` and store it (R551). -/
  | nrm (w : WordSel)
  /-- CHS: set the current channel to `n` (R651). -/
  | chs (n : Byte)
  /-- NXT: next channel, back to `t` while channels remain (R661). -/
  | nxt (t : Addr)
  /-- JMP: go to `t` (R671). -/
  | jmp (t : Addr)
  /-- PUB: hand the channel array to the relay (R681). -/
  | pub
  /-- GO: Idle to Cycling (R686). -/
  | go
  deriving DecidableEq, Repr

end Sys2Proof
end

