-- ==== Sys2Proof/Config.lean ====
section
/-!
DEFINITION. The configuration record `CONFIG` (R7), which no step changes (R102), and the model's free values. A parameter
the spec leaves OPEN is an `opaque` constant in the configuration of `State.reset`; statements range over every
configuration. `Inputs` is what the environment drives between two steps (R743, R747).
-/

namespace Sys2Proof

/-- The read mode, fixed at configuration (R9). -/
inductive Mode where
  | singleTurn
  | multiTurn
  deriving DecidableEq, Repr, Inhabited

/-- Which words the indicator shows in multi-turn mode (R602). -/
inductive LedPolicy where
  | positionOnly
  | both
  deriving DecidableEq, Repr, Inhabited

/-- Relay side, outside the block (R209). -/
inductive RelayByteOrder where
  | mostSignificantFirst
  | leastSignificantFirst
  deriving DecidableEq, Repr, Inhabited

/-- `CONFIG` (R7). Delays are in µs (R11), rates in Hz. -/
structure Config where
  /-- `N`, the channel count. -/
  n : Nat
  /-- `MODE`. -/
  mode : Mode
  /-- `F_ACQ`. -/
  fAcq : ℚ
  /-- `F_RELAY`: kept, used by nothing inside the block (D33); no condition of R10 is on it (log 27). -/
  fRelay : ℚ
  /-- `T_SETTLE`. -/
  tSettle : ℚ
  /-- `T_TURN`. -/
  tTurn : ℚ
  /-- `T_CYCLE`. -/
  tCycle : ℚ
  /-- `T_HOLD`. -/
  tHold : ℚ
  /-- `T_CS_IDLE`. -/
  tCsIdle : ℚ
  /-- `T_ZERO`. -/
  tZero : ℚ
  /-- `CMD_READ`. -/
  cmdRead : Byte
  /-- `CMD_READ_TURN`. -/
  cmdReadTurn : Byte
  /-- `CMD_ZERO_SET`. -/
  cmdZeroSet : Byte
  /-- `CS_ACTIVE_LEVEL`. -/
  csActiveLevel : Bool
  /-- `LED_POLICY`. -/
  ledPolicy : LedPolicy
  /-- `ZERO_SET_CHANNELS`. -/
  zeroSetChannels : List Nat
  /-- `select_pins`. -/
  selectPins : List Nat
  /-- `indicator_pins`. -/
  indicatorPins : List Nat
  /-- `MT_PAYLOAD`: relay side, uninterpreted (D15). -/
  mtPayload : Nat
  /-- `RELAY_BYTE_ORDER`: relay side (D17). -/
  relayByteOrder : RelayByteOrder
  /-- `F_TICK`, the timebase of the delay timer (D23); its range is open (log 25). -/
  fTick : ℚ
  /-- `TIMER_WIDTH` (D23). -/
  timerWidth : Nat
  deriving DecidableEq, Repr

/-- What the environment drives between two steps: the encoder's `MISO`, the relay's `PUB_ACK`, the level of `MOSI` while no
exchange is in progress (R111: any), and how many ticks beyond its bound the next WAIT takes (U12). -/
structure Inputs where
  miso : Bool
  pubAck : Bool
  mosiIdle : Bool
  extraTicks : Nat
  deriving DecidableEq, Repr, Inhabited

/-- Free value: what the environment drives at its `k`-th move (D26, U9, U10, U12, U13). -/
opaque Config.freeInputs : Nat → Inputs

/-- Free value: the content of `RX` before a first bit is latched in it (R112, D19). -/
opaque Config.freeRx : Byte

/-- Free value: what the relay sees in entry `i` of `PUB_BUF` before the first publication (D18, U11). -/
opaque Config.freeRelayWord : Nat → Word

/-- OPEN: `MODE` (D27). -/
opaque Config.openMode : Mode

/-- OPEN: `CMD_READ_TURN` (D9). -/
opaque Config.openCmdReadTurn : Byte

/-- OPEN: `CMD_ZERO_SET` (D9). -/
opaque Config.openCmdZeroSet : Byte

/-- OPEN: `LED_POLICY` (D13). -/
opaque Config.openLedPolicy : LedPolicy

/-- OPEN: `MT_PAYLOAD` (D15). -/
opaque Config.openMtPayload : Nat

/-- OPEN: `RELAY_BYTE_ORDER` (D17). -/
opaque Config.openRelayByteOrder : RelayByteOrder

/-- OPEN: `F_TICK` (D23); used where positive. -/
opaque Config.openFTick : ℚ

/-- OPEN: how much wider `TIMER` is than R113 requires (D23). -/
opaque Config.openTimerBits : Nat

/-- Board-specific: the pin of channel `i`'s chip select (D32). -/
opaque Config.boardSelectPin : Nat → Nat

/-- Board-specific: the pin of channel `i`'s indicator (D32). -/
opaque Config.boardIndicatorPin : Nat → Nat

/-- `ceil(T · F_TICK / 10^6)` for a delay `t` and a rate `f` (R422), computed on numerators and denominators. The spec gives `F_TICK`
no range (R7, R10): DESIGN CHOICE (log 25), a configuration with `f ≤ 0` runs, and each of its WAITs counts 0 ticks. -/
def delayTicks (f t : ℚ) : Nat :=
  (t.num.toNat * f.num.toNat + (t.den * f.den * 1000000 - 1)) / (t.den * f.den * 1000000)

/-- The tick count `TIMER` must hold (R113): that of `T_ZERO` when zero-setting is configured, else the largest of the five
other delays. -/
def Config.neededTicks (cfg : Config) : Nat :=
  if cfg.zeroSetChannels = [] then
    max (delayTicks cfg.fTick cfg.tSettle) (max (delayTicks cfg.fTick cfg.tTurn) (max (delayTicks cfg.fTick cfg.tCycle)
      (max (delayTicks cfg.fTick cfg.tHold) (delayTicks cfg.fTick cfg.tCsIdle))))
  else delayTicks cfg.fTick cfg.tZero

/-- The configuration of R7's defaults; the OPEN parameters are the constants above. -/
def Config.defaults : Config where
  n := 8
  mode := Config.openMode
  fAcq := 2000000
  fRelay := 4000000
  tSettle := 3
  tTurn := 40
  tCycle := 100
  tHold := 3
  tCsIdle := 3
  tZero := 250000
  cmdRead := 0x00
  cmdReadTurn := Config.openCmdReadTurn
  cmdZeroSet := Config.openCmdZeroSet
  csActiveLevel := false
  ledPolicy := Config.openLedPolicy
  zeroSetChannels := []
  selectPins := (List.range 8).map Config.boardSelectPin
  indicatorPins := (List.range 8).map Config.boardIndicatorPin
  mtPayload := Config.openMtPayload
  relayByteOrder := Config.openRelayByteOrder
  fTick := if 0 < Config.openFTick then Config.openFTick else 1
  timerWidth := 0

/-- The configuration of `State.reset`: the defaults with a timer as wide as R113 requires, or wider. -/
def Config.board : Config :=
  { Config.defaults with
    timerWidth := Nat.log2 (Config.neededTicks Config.defaults) + 1 + Config.openTimerBits }

end Sys2Proof
end

