-- ==== Sys2Proof/WellFormed.lean ====
section
/-!
DEFINITION. Which micro-operations have an encoding. The operand types already exclude reserved command and delay
selectors; the one check left is that of R302: an XFER that discards its byte names no destination.
-/

namespace Sys2Proof

/-- `D = 1` requires `w = 0` and `k = 0` (R302, R309); every other term is encodable. -/
def Instr.wellFormed : Instr → Bool
  | .csa => true
  | .csd => true
  | .xfer _ discard w k => !discard || (w == .position && k == .lo)
  | .wait _ => true
  | .chk _ => true
  | .led => true
  | .nrm _ => true
  | .chs _ => true
  | .nxt _ => true
  | .jmp _ => true
  | .pub => true
  | .go => true

end Sys2Proof
end

