-- ==== Sys2Proof/Decode.lean ====
section
/-!
DEFINITION. The decoder of R308, total on every 16-bit word and rejecting by name, and the encoder written from the opcode
map of R307 and the syntax table of R312. The fetch reads whole words (R202), so there is no byte order to settle here.
-/

namespace Sys2Proof

/-- Why a word is no micro-operation (R309). -/
inductive DecodeError where
  /-- `OP` is 0x0, 0xD, 0xE or 0xF. -/
  | reservedOpcode
  /-- A nonzero `A` field where it must be 0. -/
  | selectorNotZero
  /-- A nonzero bit of `B` that must be 0. -/
  | operandNotZero
  /-- `c ≥ 3`. -/
  | reservedCommand
  /-- `d ≥ 6`. -/
  | reservedDelay
  /-- `D = 1` with `w ≠ 0` or `k ≠ 0`. -/
  | discardWithDestination
  deriving DecidableEq, Repr

/-- The decoder's answer: `MicroOp or Illegal` (R308). -/
inductive Decoded where
  | ok (i : Instr)
  | illegal (why : DecodeError)
  deriving DecidableEq, Repr

/-- The field `OP`, bits 15..12 (R301). -/
def opField (u : Word) : BitVec 4 := u.extractLsb' 12 4

/-- The field `A`, bits 11..8 (R301). -/
def aField (u : Word) : BitVec 4 := u.extractLsb' 8 4

/-- The field `B`, bits 7..0 (R301). -/
def bField (u : Word) : Byte := u.extractLsb' 0 8

/-- The command a selector names (R305); 3..15 are reserved. -/
def commandOf (a : BitVec 4) : Option Command :=
  if a = 0 then some .read
  else if a = 1 then some .readTurn
  else if a = 2 then some .zeroSet
  else none

/-- The delay a selector names (R306); 6..15 are reserved. -/
def delayOf (a : BitVec 4) : Option Delay :=
  if a = 0 then some .settle
  else if a = 1 then some .turn
  else if a = 2 then some .hold
  else if a = 3 then some .csIdle
  else if a = 4 then some .cycle
  else if a = 5 then some .zero
  else none

/-- `w` as a bit (R302, R303). -/
def wordSelOf (b : Bool) : WordSel := if b then .turn else .position

/-- `k` as a bit (R302). -/
def byteSelOf (b : Bool) : ByteSel := if b then .hi else .lo

/-- A micro-operation whose `A` and `B` must both be 0. -/
def decodePlain (u : Word) (i : Instr) : Decoded :=
  if aField u ≠ 0 then .illegal .selectorNotZero
  else if bField u ≠ 0 then .illegal .operandNotZero
  else .ok i

/-- A micro-operation with `A = 0` whose operand is the word selector `B[0]`, `B[7:1] = 0` (R303). -/
def decodeWordOperand (u : Word) (i : WordSel → Instr) : Decoded :=
  if aField u ≠ 0 then .illegal .selectorNotZero
  else if (bField u).extractLsb' 1 7 ≠ 0 then .illegal .operandNotZero
  else .ok (i (wordSelOf ((bField u).getLsbD 0)))

/-- A micro-operation with `A = 0` whose operand is the whole of `B` (R304). -/
def decodeByteOperand (u : Word) (i : Byte → Instr) : Decoded :=
  if aField u ≠ 0 then .illegal .selectorNotZero
  else .ok (i (bField u))

/-- XFER (R302): `B[6:2] = 0`, and `D = 1` requires `w = k = 0`. -/
def decodeXfer (u : Word) : Decoded :=
  match commandOf (aField u) with
  | none => .illegal .reservedCommand
  | some c =>
    if (bField u).extractLsb' 2 5 ≠ 0 then .illegal .operandNotZero
    else if (bField u).getLsbD 7 && (bField u).extractLsb' 0 2 != 0 then .illegal .discardWithDestination
    else .ok (.xfer c ((bField u).getLsbD 7) (wordSelOf ((bField u).getLsbD 1)) (byteSelOf ((bField u).getLsbD 0)))

/-- WAIT (R306): `B = 0` and `d ≤ 5`. -/
def decodeWait (u : Word) : Decoded :=
  match delayOf (aField u) with
  | none => .illegal .reservedDelay
  | some d => if bField u ≠ 0 then .illegal .operandNotZero else .ok (.wait d)

/-- The decoder (R308). -/
def decodeWord (u : Word) : Decoded :=
  if opField u = 0x1 then decodePlain u .csa
  else if opField u = 0x2 then decodePlain u .csd
  else if opField u = 0x3 then decodeXfer u
  else if opField u = 0x4 then decodeWait u
  else if opField u = 0x5 then decodeWordOperand u .chk
  else if opField u = 0x6 then decodePlain u .led
  else if opField u = 0x7 then decodeWordOperand u .nrm
  else if opField u = 0x8 then decodeByteOperand u .chs
  else if opField u = 0x9 then decodeByteOperand u .nxt
  else if opField u = 0xA then decodeByteOperand u .jmp
  else if opField u = 0xB then decodePlain u .pub
  else if opField u = 0xC then decodePlain u .go
  else .illegal .reservedOpcode

/-- `c` as the field `A` (R305). -/
def commandCode : Command → BitVec 4
  | .read => 0
  | .readTurn => 1
  | .zeroSet => 2

/-- `d` as the field `A` (R306). -/
def delayCode : Delay → BitVec 4
  | .settle => 0
  | .turn => 1
  | .hold => 2
  | .csIdle => 3
  | .cycle => 4
  | .zero => 5

/-- `w` as one bit. -/
def wordSelCode : WordSel → BitVec 1
  | .position => 0
  | .turn => 1

/-- `k` as one bit. -/
def byteSelCode : ByteSel → BitVec 1
  | .lo => 0
  | .hi => 1

/-- The format `U` (R301). -/
def formatU (op a : BitVec 4) (b : Byte) : Word := op ++ a ++ b

/-- The encoder (R307, R312). -/
def encode : Instr → Word
  | .csa => formatU 0x1 0 0
  | .csd => formatU 0x2 0 0
  | .xfer c discard w k =>
    formatU 0x3 (commandCode c) (BitVec.ofBool discard ++ (0 : BitVec 5) ++ wordSelCode w ++ byteSelCode k)
  | .wait d => formatU 0x4 (delayCode d) 0
  | .chk w => formatU 0x5 0 ((0 : BitVec 7) ++ wordSelCode w)
  | .led => formatU 0x6 0 0
  | .nrm w => formatU 0x7 0 ((0 : BitVec 7) ++ wordSelCode w)
  | .chs n => formatU 0x8 0 n
  | .nxt t => formatU 0x9 0 t
  | .jmp t => formatU 0xA 0 t
  | .pub => formatU 0xB 0 0
  | .go => formatU 0xC 0 0

/-- One row of the opcode map (R307): a word has the row's opcode when `u &&& mask = bits`. -/
structure TableRow where
  bits : Word
  mask : Word
  deriving DecidableEq, Repr

/-- The row of each micro-operation, as R307 gives it. -/
def tableRow : Instr → TableRow
  | .csa => ⟨0x1000, 0xFFFF⟩
  | .csd => ⟨0x2000, 0xFFFF⟩
  | .xfer _ _ _ _ => ⟨0x3000, 0xF07C⟩
  | .wait _ => ⟨0x4000, 0xF0FF⟩
  | .chk _ => ⟨0x5000, 0xFFFE⟩
  | .led => ⟨0x6000, 0xFFFF⟩
  | .nrm _ => ⟨0x7000, 0xFFFE⟩
  | .chs _ => ⟨0x8000, 0xFF00⟩
  | .nxt _ => ⟨0x9000, 0xFF00⟩
  | .jmp _ => ⟨0xA000, 0xFF00⟩
  | .pub => ⟨0xB000, 0xFFFF⟩
  | .go => ⟨0xC000, 0xFFFF⟩

/-- What the decoder reads from an instruction of `nbits` bits numbered as spec/opcode_table.json numbers them. Every
micro-operation is one 16-bit word, fetched whole (R202, R301); bits above `nbits` are 0. -/
def decodeTableWord (nbits w : Nat) : Option Instr :=
  if nbits ≤ 16 then
    match decodeWord (BitVec.ofNat 16 (w % 2 ^ nbits)) with
    | .ok i => some i
    | .illegal _ => none
  else none

end Sys2Proof
end

