-- ==== Sys2Proof/Machine/Rom.lean ====
section
/-!
DEFINITION. The ROM images built from a configuration (R690 to R693) and the well-formedness of a configuration (R10).
-/

namespace Sys2Proof.Machine

open Sys2Proof

/-- The ten micro-operations of the zero-set preamble for channel `c` (R693, R475). -/
def zeroSetOps (c : Nat) : List Instr :=
  [.chs (BitVec.ofNat 8 c), .csa, .wait .settle, .xfer .read true .position .lo, .wait .settle,
    .xfer .zeroSet true .position .lo, .wait .hold, .csd, .wait .csIdle, .wait .zero]

/-- `PRE(ZERO_SET_CHANNELS)` (R690). -/
def preambleOps (channels : List Nat) : List Instr := channels.flatMap zeroSetOps

/-- The opening of both bodies: `GO; CYC: CHS 0; CHAN: CSA; WAIT SETTLE; XFER READ, P.1; WAIT SETTLE` (R691, R692). -/
def bodyHead : List Instr :=
  [.go, .chs 0, .csa, .wait .settle, .xfer .read false .position .hi, .wait .settle]

/-- The rest of a body: the mode's own bytes, deselection, checks and stores, then the loop (R691, R692). -/
def bodyTail (mode : Mode) (base : Nat) : List Instr :=
  match mode with
  | .singleTurn =>
    [.xfer .read false .position .lo, .wait .hold, .csd, .wait .csIdle, .chk .position, .led, .nrm .position,
      .nxt (BitVec.ofNat 8 (base + 2)), .pub, .wait .cycle, .jmp (BitVec.ofNat 8 (base + 1))]
  | .multiTurn =>
    [.xfer .readTurn false .position .lo, .wait .turn, .xfer .read false .turn .hi, .wait .settle,
      .xfer .read false .turn .lo, .wait .hold, .csd, .wait .csIdle, .chk .position, .chk .turn, .led,
      .nrm .position, .nrm .turn, .nxt (BitVec.ofNat 8 (base + 2)), .pub, .wait .cycle,
      .jmp (BitVec.ofNat 8 (base + 1))]

/-- The address of the body's first word (R690). -/
def romBase (cfg : Config) : Nat := 10 * cfg.zeroSetChannels.length

/-- The micro-operations of the ROM in address order (R690). -/
def romOps (cfg : Config) : List Instr :=
  preambleOps cfg.zeroSetChannels ++ (bodyHead ++ bodyTail cfg.mode (romBase cfg))

/-- The ROM's words (R690). -/
def buildRom (cfg : Config) : List Word := (romOps cfg).map encode

/-- The conditions of R10. A list of at most 23 zero-set channels is what keeps the ROM within 256 words.
R7 types `F_RELAY` as > 0 and R10 does not list it: DESIGN CHOICE (log 27), a configuration with `F_RELAY ≤ 0` is accepted. -/
def configOk (cfg : Config) : Bool :=
  decide (1 ≤ cfg.n) && (decide (cfg.n ≤ 256)
    && (cfg.selectPins.length == cfg.n && (cfg.indicatorPins.length == cfg.n
    && (cfg.zeroSetChannels.all (fun c => decide (c < cfg.n)) && (decide cfg.zeroSetChannels.Nodup
    && (decide (cfg.zeroSetChannels.length ≤ 23)
    && (decide (0 ≤ cfg.tSettle) && (decide (0 ≤ cfg.tTurn) && (decide (0 ≤ cfg.tCycle)
    && (decide (0 ≤ cfg.tHold) && (decide (0 ≤ cfg.tCsIdle) && (decide (0 ≤ cfg.tZero)
    && decide (0 < cfg.fAcq)))))))))))))

end Sys2Proof.Machine
end

