-- ==== Sys2Proof/Machine/State.lean ====
section
/-!
DEFINITION. The machine's state as plain data (R101 to R117), the reasons a step can stop, and the state after reset (R801).
`Option` marks a cell whose reset value the spec itself gives as `unwritten`: reading `none` is the model fault F6.
-/

namespace Sys2Proof.Machine

open Sys2Proof

/-- The Acquisition Loop's state (R105). -/
inductive Phase where
  | idle
  | cycling
  deriving DecidableEq, Repr

/-- The model faults of R711. -/
inductive FaultCode where
  /-- F1 ILLEGAL_UOP, raised by the fetch of an illegal word. -/
  | illegalUop
  /-- F2 UPC_RANGE, raised by a fetch at or past the ROM's end. -/
  | upcRange
  /-- F3 CH_RANGE, raised by CSA, CSD, XFER, LED, NRM and CHS. -/
  | chRange
  /-- F4 CS_CONFLICT, raised by CSA. -/
  | csConflict
  /-- F5 CS_NOT_SELECTED, raised by CSD and XFER. -/
  | csNotSelected
  /-- F6 UNWRITTEN, raised by CHK, LED, NRM and PUB (and by XFER on an unwritten shifter register). -/
  | unwritten
  /-- F7 MODE, raised by XFER, CHK and NRM. -/
  | mode
  /-- F8 PHASE, raised by GO. -/
  | phase
  deriving DecidableEq, Repr

/-- `FAULT`, a set of {F1..F8} (R115): one flag for each, so that equal sets are equal data. -/
structure FaultSet where
  f1 : Bool := false
  f2 : Bool := false
  f3 : Bool := false
  f4 : Bool := false
  f5 : Bool := false
  f6 : Bool := false
  f7 : Bool := false
  f8 : Bool := false
  deriving DecidableEq, Repr

/-- ∅. -/
def FaultSet.none : FaultSet := {}

/-- The two byte cells of one received word (R107). -/
structure WordBytes where
  /-- `WB[w][1]`, the most significant byte. -/
  hi : Option Byte
  /-- `WB[w][0]`, the least significant byte. -/
  lo : Option Byte
  deriving DecidableEq, Repr

/-- The state table of 10_state.md section 2, with the configuration and the ROM it is run with (R102). -/
structure State where
  /-- `CONFIG`: a parameter of the step relation, never written (R102). -/
  cfg : Config
  /-- The ROM's words: a parameter of the step relation, never written (R102, R202, R220). -/
  rom : List Word
  /-- `upc` (R110). -/
  upc : Addr
  /-- The model's own: the carry of `upc + 1`; the next fetch is at 256, past every ROM (R110, D38). -/
  upcCarry : Bool
  /-- `PHASE` (R105). -/
  phase : Phase
  /-- `CH` (R106). -/
  ch : Byte
  /-- `CS[0..N-1]` (R103). -/
  cs : List Bool
  /-- `LED[0..N-1]` (R104). -/
  led : List Bool
  /-- `WB[0]`, the position word's bytes (R107). -/
  wbPosition : WordBytes
  /-- `WB[1]`, the turn word's bytes (R107). -/
  wbTurn : WordBytes
  /-- `V[0]` (R108). -/
  vPosition : Option Bool
  /-- `V[1]` (R108). -/
  vTurn : Option Bool
  /-- `POS[0..N-1]`, the channel array (R109). -/
  pos : List (Option Word)
  /-- `TURN[0..N-1]` (R109). -/
  turn : List (Option Word)
  /-- `RAWP[0..N-1]` (R109). -/
  rawp : List (Option Word)
  /-- `RAWT[0..N-1]` (R109). -/
  rawt : List (Option Word)
  /-- `VALID[0..N-1]` (R109, D14). -/
  valid : List (Option Bool)
  /-- `SCLK`, output (R111). -/
  sclk : Bool
  /-- `MOSI`, output; a free value while no exchange is in progress (R111). -/
  mosi : Bool
  /-- `MISO`, input (R111). -/
  miso : Bool
  /-- `TX` (R112): the command byte, which the model does not shift (log 26). -/
  tx : Option Byte
  /-- `RX` (R112). -/
  rx : Option Byte
  /-- `BITCNT`, 0..8 (R112); it counts at the falling edges (log 6). -/
  bitcnt : Nat
  /-- `TIMER`, remaining ticks (R113). -/
  timer : Nat
  /-- `PUB_REQ`, output (R114). -/
  pubReq : Bool
  /-- The model's own: PUB is at its second hold, waiting for `PUB_ACK = 0` (R681, R731). -/
  pubRelease : Bool
  /-- `PUB_BUF[0..N-1]` (R114, R204). -/
  pubBuf : List (Option Word)
  /-- `PUB_ACK`, input (R114). -/
  pubAck : Bool
  /-- `FAULT` (R115). -/
  fault : FaultSet
  /-- The model's own free value: ticks the next WAIT takes beyond its bound (R422, U12). -/
  extraTicks : Nat
  /-- The model's own: how many of the environment's moves have been drawn. -/
  draws : Nat
  deriving DecidableEq, Repr

/-- Why a step gives no next state. -/
inductive Fault where
  /-- Raised by `step` in a state whose `FAULT` is not empty: there is no step (R694, R115). Safe: nothing runs on. -/
  | noStep (recorded : FaultSet)
  deriving DecidableEq, Repr

/-- Why a step is refused. -/
inductive Refusal where
  /-- Raised by `exec` for an instruction with no meaning yet. Safe: nothing runs on. -/
  | notModelled (mnemonic : String)
  /-- Raised by `step` when the configuration breaks R10: it has no run (R10, R803, U14). Safe: nothing runs on. -/
  | illFormedConfig
  deriving DecidableEq, Repr

/-- The state after reset (R801) of a block with this configuration and ROM, while the environment drives `inp`. -/
def State.powerUp (cfg : Config) (rom : List Word) (inp : Inputs) : State where
  cfg := cfg
  rom := rom
  upc := 0
  upcCarry := false
  phase := .idle
  ch := 0
  cs := List.replicate cfg.n false
  led := List.replicate cfg.n false
  wbPosition := ⟨none, none⟩
  wbTurn := ⟨none, none⟩
  vPosition := none
  vTurn := none
  pos := List.replicate cfg.n none
  turn := List.replicate cfg.n none
  rawp := List.replicate cfg.n none
  rawt := List.replicate cfg.n none
  valid := List.replicate cfg.n none
  sclk := false
  mosi := inp.mosiIdle
  miso := inp.miso
  tx := none
  rx := none
  bitcnt := 0
  timer := 0
  pubReq := false
  pubRelease := false
  pubBuf := List.replicate cfg.n none
  pubAck := inp.pubAck
  fault := FaultSet.none
  extraTicks := inp.extraTicks
  draws := 1

/-- The machine right after reset: R7's defaults, the ROM they build, and a first free move of the environment. -/
def State.reset : State := State.powerUp Config.board (buildRom Config.board) (Config.freeInputs 0)

end Sys2Proof.Machine
end

