-- ==== Sys2Proof/Machine/Ops.lean ====
section
/-!
DEFINITION. The named operations over the state: reading and writing the register arrays, moving `upc`, and recording a model
fault, which is this block's whole exception mechanism (R701, R711). Every meaning is written over these.
-/

namespace Sys2Proof.Machine

open Sys2Proof

/-- Go on from a next state; a fault or a refusal ends there. -/
def andThen (o : Host.Outcome State Fault Refusal) (k : State → Host.Outcome State Fault Refusal) :
    Host.Outcome State Fault Refusal :=
  match o with
  | .next t => k t
  | .fault f => .fault f
  | .refused r => .refused r

/-- Is `c` in the set? -/
def FaultSet.has (f : FaultSet) : FaultCode → Bool
  | .illegalUop => f.f1
  | .upcRange => f.f2
  | .chRange => f.f3
  | .csConflict => f.f4
  | .csNotSelected => f.f5
  | .unwritten => f.f6
  | .mode => f.f7
  | .phase => f.f8

/-- The set with `c` added. -/
def FaultSet.insert (f : FaultSet) : FaultCode → FaultSet
  | .illegalUop => { f with f1 := true }
  | .upcRange => { f with f2 := true }
  | .chRange => { f with f3 := true }
  | .csConflict => { f with f4 := true }
  | .csNotSelected => { f with f5 := true }
  | .unwritten => { f with f6 := true }
  | .mode => { f with f7 := true }
  | .phase => { f with f8 := true }

/-- `raise Fault(c)`: the code is recorded and nothing else is written (R14, R694). -/
def State.raise (s : State) (c : FaultCode) : State := { s with fault := s.fault.insert c }

/-- `upc <- upc + 1` (R110). The carry marks address 256, which no ROM reaches: `upc` does not wrap. -/
def State.advance (s : State) : State := { s with upc := s.upc + 1, upcCarry := s.upc == 0xFF }

/-- `upc <- t` (R661, R671). -/
def State.jump (s : State) (t : Addr) : State := { s with upc := t, upcCarry := false }

/-- `CH` as a channel index. -/
def State.channel (s : State) : Nat := s.ch.toNat

/-- `CH < N` (R106). -/
def State.channelOk (s : State) : Bool := Nat.blt s.channel s.cfg.n

/-- `CS[i]` (R103). -/
def State.selected (s : State) (i : Nat) : Bool := s.cs.getD i false

/-- `exists i < N, CS[i] = 1` (R401). -/
def State.anySelected (s : State) : Bool := (List.range s.cfg.n).any s.selected

/-- `LED[i]` (R104). -/
def State.lit (s : State) (i : Nat) : Bool := s.led.getD i false

/-- `POS[i]`; `none` is unwritten. -/
def State.posAt (s : State) (i : Nat) : Option Word := s.pos.getD i none

/-- `TURN[i]`. -/
def State.turnAt (s : State) (i : Nat) : Option Word := s.turn.getD i none

/-- `RAWP[i]`. -/
def State.rawpAt (s : State) (i : Nat) : Option Word := s.rawp.getD i none

/-- `RAWT[i]`. -/
def State.rawtAt (s : State) (i : Nat) : Option Word := s.rawt.getD i none

/-- `VALID[i]`. -/
def State.validAt (s : State) (i : Nat) : Option Bool := s.valid.getD i none

/-- `PUB_BUF[i]`. -/
def State.publishedAt (s : State) (i : Nat) : Option Word := s.pubBuf.getD i none

/-- `WB[w][k]`. -/
def State.byteAt (s : State) (w : WordSel) (k : ByteSel) : Option Byte :=
  match w, k with
  | .position, .hi => s.wbPosition.hi
  | .position, .lo => s.wbPosition.lo
  | .turn, .hi => s.wbTurn.hi
  | .turn, .lo => s.wbTurn.lo

/-- `V[w]`. -/
def State.validity (s : State) : WordSel → Option Bool
  | .position => s.vPosition
  | .turn => s.vTurn

/-- The channel array as one value, `POS[0..N-1]` (R681). -/
def State.channelArray (s : State) : List (Option Word) := (List.range s.cfg.n).map s.posAt

/-- `CS[i] <- b`. -/
def State.putCs (s : State) (i : Nat) (b : Bool) : State := { s with cs := s.cs.set i b }

/-- `LED[i] <- b; VALID[i] <- b` (R601, D14). -/
def State.putIndicator (s : State) (i : Nat) (b : Bool) : State :=
  { s with led := s.led.set i b, valid := s.valid.set i (some b) }

/-- `WB[w][k] <- b` (R461). -/
def State.putByte (s : State) (w : WordSel) (k : ByteSel) (b : Byte) : State :=
  match w, k with
  | .position, .hi => { s with wbPosition := { s.wbPosition with hi := some b } }
  | .position, .lo => { s with wbPosition := { s.wbPosition with lo := some b } }
  | .turn, .hi => { s with wbTurn := { s.wbTurn with hi := some b } }
  | .turn, .lo => { s with wbTurn := { s.wbTurn with lo := some b } }

/-- `V[w] <- b` (R501). -/
def State.putValidity (s : State) (w : WordSel) (b : Bool) : State :=
  match w with
  | .position => { s with vPosition := some b }
  | .turn => { s with vTurn := some b }

/-- `POS[i] <- r; RAWP[i] <- x` or `TURN[i] <- r; RAWT[i] <- x` (R551). -/
def State.putReading (s : State) (w : WordSel) (i : Nat) (r x : Word) : State :=
  match w with
  | .position => { s with pos := s.pos.set i (some r), rawp := s.rawp.set i (some x) }
  | .turn => { s with turn := s.turn.set i (some r), rawt := s.rawt.set i (some x) }

/-- `CH <- n` (R651, R661). -/
def State.putChannel (s : State) (n : Byte) : State := { s with ch := n }

/-- An exchange is under way on the bus: its first rising edge has come and its last falling edge has not (R451). -/
def State.exchanging (s : State) : Bool := s.sclk || (Nat.blt 0 s.bitcnt && Nat.blt s.bitcnt 8)

/-- The bit of a byte that bit cell `i` carries: bit `7 - i` (R453, R454). -/
def cellBit (i : Nat) : Nat := 7 - i

/-- `v` with bit `j` set to `b`. -/
def setBit (v : Byte) (j : Nat) (b : Bool) : Byte :=
  (v &&& ~~~(1#8 <<< j)) ||| (if b then 1#8 <<< j else 0#8)

/-- The first half of bit cell `i`, ending with its rising edge: `MOSI` carries `tx[7 - i]` and `rx[7 - i]` is latched from
`MISO` (R451, R453, R454). DESIGN CHOICE (log 26): `TX` holds the whole command byte, unshifted, in every cell and after the last. -/
def State.clockRise (s : State) (tx : Byte) (i : Nat) : State :=
  { s with
    tx := some tx
    bitcnt := i
    mosi := tx.getLsbD (cellBit i)
    sclk := true
    rx := some (setBit (s.rx.getD Config.freeRx) (cellBit i) s.miso) }

/-- The falling edge that ends a bit cell: one more bit exchanged (R451). DESIGN CHOICE (log 6): `BITCNT` counts the bit here and not
at the rising edge that samples it. -/
def State.clockFall (s : State) : State := { s with sclk := false, bitcnt := s.bitcnt + 1 }

/-- `TIMER <- n` (R422). -/
def State.putTimer (s : State) (n : Nat) : State := { s with timer := n }

/-- PUB's first part: the atomic copy and `PUB_REQ <- 1` (R681, R218). -/
def State.publish (s : State) (a : List (Option Word)) : State := { s with pubBuf := a, pubReq := true }

/-- PUB's second part: `PUB_REQ <- 0`, then the hold for `PUB_ACK = 0` (R681). -/
def State.withdraw (s : State) : State := { s with pubReq := false, pubRelease := true }

/-- PUB's end: the second hold is lifted (R681). -/
def State.closeHandshake (s : State) : State := { s with pubRelease := false }

/-- `PHASE <- CYCLING` (R686). -/
def State.startCycling (s : State) : State := { s with phase := .cycling }

end Sys2Proof.Machine
end

