-- ==== Sys2Proof/Machine/Operands.lean ====
section
/-!
DEFINITION. The operand forms: the command byte a selector names (R305), the delay a selector names and its tick count (R306,
R422), the received word a selector names (R107), and the mode check of a turn-word operand (R310).
-/

namespace Sys2Proof.Machine

open Sys2Proof

/-- The byte an XFER sends (R305). -/
def commandByte (cfg : Config) : Command → Byte
  | .read => cfg.cmdRead
  | .readTurn => cfg.cmdReadTurn
  | .zeroSet => cfg.cmdZeroSet

/-- The delay a WAIT enforces, in µs (R306). -/
def delayTime (cfg : Config) : Delay → ℚ
  | .settle => cfg.tSettle
  | .turn => cfg.tTurn
  | .hold => cfg.tHold
  | .csIdle => cfg.tCsIdle
  | .cycle => cfg.tCycle
  | .zero => cfg.tZero

/-- The least tick count of a WAIT (R422). -/
def waitTicks (cfg : Config) (d : Delay) : Nat := delayTicks cfg.fTick (delayTime cfg d)

/-- The tick count a WAIT loads: the least, and `extra` more as far as `TIMER` holds them (R113, R422, U12). -/
def loadTicks (cfg : Config) (d : Delay) (extra : Nat) : Nat :=
  waitTicks cfg d + min extra (2 ^ cfg.timerWidth - 1 - waitTicks cfg d)

/-- `W[w] = WB[w][1] ++ WB[w][0]`; `none` where either byte is unwritten (R107). -/
def State.word (s : State) (w : WordSel) : Option Word :=
  match s.byteAt w .hi, s.byteAt w .lo with
  | some b1, some b0 => some (b1 ++ b0)
  | _, _ => none

/-- A turn-word operand in SINGLE_TURN mode (R310). -/
def turnForbidden (cfg : Config) (w : WordSel) : Bool := w == .turn && cfg.mode == .singleTurn

end Sys2Proof.Machine
end

