-- ==== Sys2Proof/Machine/Flags.lean ====
section
/-!
DEFINITION. The block's flag computation and its data functions: the parity check of R502, whose result is the flag `V[w]`
(R108), the normalizer of R552, and the indicator's value (R601).
-/

namespace Sys2Proof.Machine

open Sys2Proof

/-- `K1exp(x)`: the inverted XOR of the odd-numbered data bits (R502). -/
def k1Expected (x : Word) : Bool :=
  !(x.getLsbD 13 ^^ x.getLsbD 11 ^^ x.getLsbD 9 ^^ x.getLsbD 7 ^^ x.getLsbD 5 ^^ x.getLsbD 3 ^^ x.getLsbD 1)

/-- `K0exp(x)`: the inverted XOR of the even-numbered data bits (R502). -/
def k0Expected (x : Word) : Bool :=
  !(x.getLsbD 12 ^^ x.getLsbD 10 ^^ x.getLsbD 8 ^^ x.getLsbD 6 ^^ x.getLsbD 4 ^^ x.getLsbD 2 ^^ x.getLsbD 0)

/-- `parity_valid(x)` (R502). -/
def parityValid (x : Word) : Bool := x.getLsbD 15 == k1Expected x && x.getLsbD 14 == k0Expected x

/-- The sentinel (R8). -/
def sentinel : Word := 0x7FFF

/-- `normalize(x, v)` (R552). -/
def normalize (x : Word) (v : Bool) : Word := if v then x &&& 0x3FFF else sentinel

/-- The value LED drives; `none` where a flag it reads is unwritten (R601, R602). -/
def State.indicatorValue (s : State) : Option Bool :=
  match s.vPosition with
  | none => none
  | some v0 =>
    if s.cfg.mode == .multiTurn && s.cfg.ledPolicy == .both then s.vTurn.map (v0 && ·) else some v0

end Sys2Proof.Machine
end

