-- ==== Sys2Proof/Machine/ChannelSelect.lean ====
section
/-!
DEFINITION. The Channel Selector: CSA, CSD and WAIT (40_channel_select.md).
-/

namespace Sys2Proof.Machine

open Sys2Proof

/-- CSA (R401): F3, then F4, else the current channel is selected. -/
def execCsa (s : State) : Host.Outcome State Fault Refusal :=
  .next (
    if !s.channelOk then s.raise .chRange
    else if s.anySelected then s.raise .csConflict
    else (s.putCs s.channel true).advance)

/-- CSD (R411): F3, then F5, else the current channel is deselected. -/
def execCsd (s : State) : Host.Outcome State Fault Refusal :=
  .next (
    if !s.channelOk then s.raise .chRange
    else if !s.selected s.channel then s.raise .csNotSelected
    else (s.putCs s.channel false).advance)

/-- WAIT (R421, R422): the first step loads `TIMER`, each later step is one tick, and the micro-op completes when `TIMER` is 0.
`TIMER` is 0 whenever no WAIT is under way, so a zero `TIMER` marks the first step. -/
def execWait (d : Delay) (s : State) : Host.Outcome State Fault Refusal :=
  let left := if s.timer = 0 then loadTicks s.cfg d s.extraTicks else s.timer - 1
  .next (if left = 0 then (s.putTimer 0).advance else s.putTimer left)

end Sys2Proof.Machine
end

