-- ==== Sys2Proof/Machine/FrameReader.lean ====
section
/-!
DEFINITION. The SSI Frame Reader: XFER (41_frame_reader.md), run bit by bit as D28 allows. One step is one half of a bit cell: the
low half up to and including the rising edge, then the high half up to and including the falling edge.
-/

namespace Sys2Proof.Machine

open Sys2Proof

/-- XFER's checks and the first half of its bit cell 0 (R461). -/
def xferStart (c : Command) (discard : Bool) (w : WordSel) (s : State) : State :=
  if !s.channelOk then s.raise .chRange
  else if !s.selected s.channel then s.raise .csNotSelected
  else if !discard && turnForbidden s.cfg w then s.raise .mode
  else s.clockRise (commandByte s.cfg c) 0

/-- The first half of a later bit cell (R451); `TX` is read. -/
def xferRise (s : State) : State :=
  match s.tx with
  | none => s.raise .unwritten
  | some tx => s.clockRise tx s.bitcnt

/-- The last falling edge: the received byte is stored unless it is discarded, and the micro-op completes (R461). -/
def xferFinish (discard : Bool) (w : WordSel) (k : ByteSel) (s : State) : State :=
  if discard then s.clockFall.advance
  else
    match s.rx with
    | none => s.raise .unwritten
    | some b => (s.clockFall.putByte w k b).advance

/-- XFER (R451, R461): `SCLK` and `BITCNT` say which half of which bit cell comes next. -/
def execXfer (c : Command) (discard : Bool) (w : WordSel) (k : ByteSel) (s : State) :
    Host.Outcome State Fault Refusal :=
  .next (
    if s.sclk then if s.bitcnt < 7 then s.clockFall else xferFinish discard w k s
    else if s.exchanging then xferRise s
    else xferStart c discard w s)

end Sys2Proof.Machine
end

