-- ==== Sys2Proof/Machine/Indicator.lean ====
section
/-!
DEFINITION. The Status Indicator: LED (44_status.md).
-/

namespace Sys2Proof.Machine

open Sys2Proof

/-- LED (R601): F3, F6, else the indicator and the validity record of channel `CH` are written. -/
def execLed (s : State) : Host.Outcome State Fault Refusal :=
  .next (
    if !s.channelOk then s.raise .chRange
    else
      match s.indicatorValue with
      | none => s.raise .unwritten
      | some b => (s.putIndicator s.channel b).advance)

end Sys2Proof.Machine
end

