-- ==== Sys2Proof/Machine/Loop.lean ====
section
/-!
DEFINITION. The Acquisition Loop: CHS, NXT, JMP, PUB and GO (45_sequencer.md).
-/

namespace Sys2Proof.Machine

open Sys2Proof

/-- CHS (R651): F3 when `n ≥ N`, else `CH <- n`. -/
def execChs (n : Byte) (s : State) : Host.Outcome State Fault Refusal :=
  .next (if s.cfg.n ≤ n.toNat then s.raise .chRange else (s.putChannel n).advance)

/-- NXT (R661): `CH + 1 < N` is computed without wrap-around. -/
def execNxt (t : Addr) (s : State) : Host.Outcome State Fault Refusal :=
  .next (if s.channel + 1 < s.cfg.n then (s.putChannel (s.ch + 1)).jump t else s.advance)

/-- JMP (R671). -/
def execJmp (t : Addr) (s : State) : Host.Outcome State Fault Refusal := .next (s.jump t)

/-- PUB (R681): F6 on an unwritten entry, else the copy and `PUB_REQ <- 1`; then the hold for `PUB_ACK = 1`, `PUB_REQ <- 0`, and
the hold for `PUB_ACK = 0`. A held PUB leaves the state as it is (R694, R731). -/
def execPub (s : State) : Host.Outcome State Fault Refusal :=
  .next (
    if s.pubReq then if s.pubAck then s.withdraw else s
    else if s.pubRelease then if s.pubAck then s else s.closeHandshake.advance
    else if s.channelArray.any Option.isNone then s.raise .unwritten
    else s.publish s.channelArray)

/-- GO (R686): F8 in CYCLING, else `PHASE <- CYCLING`. -/
def execGo (s : State) : Host.Outcome State Fault Refusal :=
  .next (if s.phase = .cycling then s.raise .phase else s.startCycling.advance)

end Sys2Proof.Machine
end

