-- ==== Sys2Proof/Machine/Normalizer.lean ====
section
/-!
DEFINITION. The Reading Normalizer: NRM (43_normalize.md).
-/

namespace Sys2Proof.Machine

open Sys2Proof

/-- NRM (R551): F3, F7, F6, else the normalized word and the raw word are stored at index `CH`. -/
def execNrm (w : WordSel) (s : State) : Host.Outcome State Fault Refusal :=
  .next (
    if !s.channelOk then s.raise .chRange
    else if turnForbidden s.cfg w then s.raise .mode
    else
      match s.word w, s.validity w with
      | some x, some v => (s.putReading w s.channel (normalize x v) x).advance
      | _, _ => s.raise .unwritten)

end Sys2Proof.Machine
end

