-- ==== Sys2Proof/Machine/ParityCheck.lean ====
section
/-!
DEFINITION. The Parity Validator: CHK (42_parity.md).
-/

namespace Sys2Proof.Machine

open Sys2Proof

/-- CHK (R501): F7, then F6, else `V[w] <- parity_valid(W[w])`. -/
def execChk (w : WordSel) (s : State) : Host.Outcome State Fault Refusal :=
  .next (
    if turnForbidden s.cfg w then s.raise .mode
    else
      match s.word w with
      | none => s.raise .unwritten
      | some x => (s.putValidity w (parityValid x)).advance)

end Sys2Proof.Machine
end

