-- ==== Sys2Proof/Machine/Dispatch.lean ====
section
/-!
DEFINITION. The dispatch: one arm for each micro-operation of R307.
-/

namespace Sys2Proof.Machine

open Sys2Proof

def exec (i : Instr) (s : State) : Host.Outcome State Fault Refusal :=
  match i with
  | .csa => Sys2Proof.Machine.execCsa s
  | .csd => Sys2Proof.Machine.execCsd s
  | .xfer c discard w k => Sys2Proof.Machine.execXfer c discard w k s
  | .wait d => Sys2Proof.Machine.execWait d s
  | .chk w => Sys2Proof.Machine.execChk w s
  | .led => Sys2Proof.Machine.execLed s
  | .nrm w => Sys2Proof.Machine.execNrm w s
  | .chs n => Sys2Proof.Machine.execChs n s
  | .nxt t => Sys2Proof.Machine.execNxt t s
  | .jmp t => Sys2Proof.Machine.execJmp t s
  | .pub => Sys2Proof.Machine.execPub s
  | .go => Sys2Proof.Machine.execGo s

end Sys2Proof.Machine
end

