-- ==== Sys2Proof/Machine/Environment.lean ====
section
/-!
DEFINITION. What the world outside the block does between two steps: the encoders drive `MISO`, the relay drives `PUB_ACK` within
the duties of R747, `MOSI` has any level while no exchange is in progress (R111), and the board may assert `RESET` (R802).
-/

namespace Sys2Proof.Machine

open Sys2Proof

/-- The environment drives `inp`. The relay never raises `PUB_ACK` while `PUB_REQ = 0` and its previous ack is low (R747). -/
def State.drive (s : State) (inp : Inputs) : State :=
  { s with
    miso := inp.miso
    pubAck := inp.pubAck && (s.pubReq || s.pubAck)
    mosi := if s.exchanging then s.mosi else inp.mosiIdle
    extraTicks := inp.extraTicks }

/-- The environment's next free move (D26, U9 to U13). -/
def State.environment (s : State) : State :=
  { s.drive (Config.freeInputs s.draws) with draws := s.draws + 1 }

/-- `RESET` asserted: the state of R801, with the block's own configuration and ROM (R802). -/
def State.resetPin (s : State) (inp : Inputs) : State := State.powerUp s.cfg s.rom inp

end Sys2Proof.Machine
end

