-- ==== Sys2Proof/Machine/Fetch.lean ====
section
/-!
DEFINITION. The fetch of R694: the configuration is well-formed (R10), `FAULT` is empty, `upc` is inside the ROM (F2), the word
decodes (F1), and then the micro-op runs. Also how a word is placed where the next fetch reads.
-/

namespace Sys2Proof.Machine

open Sys2Proof

/-- What a fetch finds. -/
inductive Fetched where
  /-- The configuration breaks R10. -/
  | noRun
  /-- `FAULT` is not empty. -/
  | faulted
  /-- The fetch raises F2 or F1. -/
  | raises (c : FaultCode)
  /-- A micro-op to perform. -/
  | run (i : Instr)
  deriving DecidableEq, Repr

/-- The fetch, in the order of R694 and R721. -/
def fetch (s : State) : Fetched :=
  if !configOk s.cfg then .noRun
  else if s.fault ≠ FaultSet.none then .faulted
  else if s.upcCarry then .raises .upcRange
  else
    match s.rom[s.upc.toNat]? with
    | none => .raises .upcRange
    | some u =>
      match decodeWord u with
      | .illegal _ => .raises .illegalUop
      | .ok i => .run i

/-- `rom` with `u` at address `a`; a shorter ROM is filled up with the illegal word 0x0000. -/
def placeWord : List Word → Nat → Word → List Word
  | [], 0, u => [u]
  | [], a + 1, u => 0 :: placeWord [] a u
  | _ :: rest, 0, u => u :: rest
  | v :: rest, a + 1, u => v :: placeWord rest a u

/-- The state with `u` where the next fetch reads. -/
def State.placeNext (s : State) (u : Word) : State :=
  { s with rom := placeWord s.rom s.upc.toNat u, upcCarry := false }

end Sys2Proof.Machine
end

