-- ==== Sys2Proof/Machine/Step.lean ====
section
/-!
DEFINITION. One sequencer step (R694), and `step`: a sequencer step followed by one free move of the environment.
-/

namespace Sys2Proof.Machine

open Sys2Proof

/-- One step of the sequencer, the environment standing still (R694). -/
def sequencerStep (s : State) : Host.Outcome State Fault Refusal :=
  match fetch s with
  | .noRun => .refused .illFormedConfig
  | .faulted => .fault (.noStep s.fault)
  | .raises c => .next (s.raise c)
  | .run i => exec i s

/-- A sequencer step, after which the environment drives `inp`. -/
def stepWith (inp : Inputs) (s : State) : Host.Outcome State Fault Refusal :=
  andThen (sequencerStep s) fun t => .next (t.drive inp)

/-- One step of the machine: a sequencer step, after which the environment makes its next free move. -/
def step (s : State) : Host.Outcome State Fault Refusal :=
  andThen (sequencerStep s) fun t => .next t.environment

/-- `s` with the instruction whose bits are `w` where `step` fetches next. -/
def State.withFetchWord (s : State) (nbits w : Nat) : State :=
  s.placeNext (BitVec.ofNat 16 (w % 2 ^ nbits))

end Sys2Proof.Machine
end

