-- ==== Sys2Proof/Machine/Pins.lean ====
section
/-!
DEFINITION. What the environment can observe (R117): the levels on the block's output ports (R743) and the array the relay sees.
-/

namespace Sys2Proof.Machine

open Sys2Proof

/-- The level of `select_pins[i]` (R103). -/
def State.selectLevel (s : State) (i : Nat) : Bool := if s.selected i then s.cfg.csActiveLevel else !s.cfg.csActiveLevel

/-- The level of `indicator_pins[i]`: active high (R104, R605). -/
def State.indicatorLevel (s : State) (i : Nat) : Bool := s.lit i

/-- What the relay sees in entry `i`: the last published word, any value before the first publication (R114, R813, D18). -/
def State.relayWord (s : State) (i : Nat) : Word := (s.publishedAt i).getD (Config.freeRelayWord i)

/-- The output ports of R743; board pins are paired with their levels. -/
structure Outputs where
  sclk : Bool
  mosi : Bool
  selectPins : List (Nat × Bool)
  indicatorPins : List (Nat × Bool)
  pubReq : Bool
  pubBuf : List Word
  deriving DecidableEq, Repr

/-- The levels on the output ports in a state (R117). -/
def State.outputs (s : State) : Outputs where
  sclk := s.sclk
  mosi := s.mosi
  selectPins := s.cfg.selectPins.zip ((List.range s.cfg.n).map s.selectLevel)
  indicatorPins := s.cfg.indicatorPins.zip ((List.range s.cfg.n).map s.indicatorLevel)
  pubReq := s.pubReq
  pubBuf := (List.range s.cfg.n).map s.relayWord

end Sys2Proof.Machine
end

