-- ==== Sys2Proof/Machine/Run.lean ====
section
/-!
DEFINITION. Runs under an environment given step by step: what a statement for every environment quantifies over. `step` is
`stepWith` on the free inputs.
-/

namespace Sys2Proof.Machine

open Sys2Proof

/-- What happens next at the block's inputs: one step, or `RESET` (R802). In both the environment then drives `inp`. -/
inductive Event where
  | clock (inp : Inputs)
  | reset (inp : Inputs)
  deriving DecidableEq, Repr

/-- One event. `RESET` is answered in every state, held or faulted ones too (R802). -/
def act (e : Event) (s : State) : Host.Outcome State Fault Refusal :=
  match e with
  | .clock inp => stepWith inp s
  | .reset inp => .next (s.resetPin inp)

/-- One step for each element of the list, the environment driving it after the step. -/
def runWith : List Inputs → State → Host.Outcome State Fault Refusal
  | [], s => .next s
  | inp :: rest, s => andThen (stepWith inp s) fun t => runWith rest t

/-- The same micro-op performed once for each element of the list: a micro-op that holds. -/
def execWith (i : Instr) : List Inputs → State → Host.Outcome State Fault Refusal
  | [], s => .next s
  | inp :: rest, s => andThen (exec i s) fun t => execWith i rest (t.drive inp)

end Sys2Proof.Machine
end

