-- ==== Sys2Proof/Machine/Trace.lean ====
section
/-!
DEFINITION. The timed pin trace of R400. A stamp is the time, in µs, that the block guarantees to have passed: every timing rule is
a lower bound (R12), so a difference of two stamps bounds the real time between the two events from below.
-/

namespace Sys2Proof.Machine

open Sys2Proof

/-- The events of R400. -/
inductive PinEvent where
  | csOn (i : Nat)
  | csOff (i : Nat)
  | sclkRise
  | sclkFall
  | mosi (b : Bool)
  | sample (b : Bool)
  | led (i : Nat) (b : Bool)
  | pubReq (b : Bool)
  deriving DecidableEq, Repr

/-- `T_BIT / 2` in µs (R452). -/
def halfBit (cfg : Config) : ℚ := 1000000 / cfg.fAcq / 2

/-- One tick of the delay timer in µs (R422). -/
def tickTime (cfg : Config) : ℚ := 1000000 / cfg.fTick

/-- The least duration of a step: half a bit cell when `SCLK` changes (R452), a tick when `TIMER` counts down (R422), and 0 for a
micro-op with no bound (R831). -/
def stepFloor (s t : State) : ℚ :=
  if s.sclk ≠ t.sclk then halfBit s.cfg
  else if t.timer < s.timer then tickTime s.cfg
  else 0

/-- `CS_ON` and `CS_OFF` events of a step. -/
def selectEvents (s t : State) : List PinEvent :=
  (List.range s.cfg.n).filterMap fun i =>
    if !s.selected i && t.selected i then some (.csOn i)
    else if s.selected i && !t.selected i then some (.csOff i)
    else none

/-- The events at the end of a step from `s` to `t`: the edges of `SCLK` with the sample at the rising one (R451), the select lines
(R401, R411), the indicator each completed LED drives (R601), and `PUB_REQ` (R681). -/
def endEvents (s t : State) : List PinEvent :=
  (if !s.sclk && t.sclk then [PinEvent.sclkRise, PinEvent.sample s.miso] else [])
    ++ (if s.sclk && !t.sclk then [PinEvent.sclkFall] else [])
    ++ selectEvents s t
    ++ (if fetch s = Fetched.run .led ∧ t.fault = s.fault then [PinEvent.led s.channel (t.lit s.channel)] else [])
    ++ (if s.pubReq ≠ t.pubReq then [PinEvent.pubReq t.pubReq] else [])

/-- All the events of a step, stamped from the step's start: `MOSI` is driven as the bit cell begins (R453). -/
def stepEvents (s t : State) : List (ℚ × PinEvent) :=
  (if !s.sclk && t.sclk then [(0, PinEvent.mosi t.mosi)] else [])
    ++ (endEvents s t).map (fun e => (stepFloor s t, e))

/-- What an outcome contributes to a trace: nothing but from a next state. -/
def eventsFrom (o : Host.Outcome State Fault Refusal) (k : State → List (ℚ × PinEvent)) : List (ℚ × PinEvent) :=
  match o with
  | .next t => k t
  | .fault _ => []
  | .refused _ => []

/-- The stamped events of a run that starts at time `now`. -/
def timedTrace (now : ℚ) : List Inputs → State → List (ℚ × PinEvent)
  | [], _ => []
  | inp :: rest, s =>
    eventsFrom (sequencerStep s) fun t =>
      (stepEvents s t).map (fun e => (now + e.1, e.2)) ++ timedTrace (now + stepFloor s t) rest (t.drive inp)

/-- The pin trace of a run, without times. -/
def pinTrace (inputs : List Inputs) (s : State) : List PinEvent := (timedTrace 0 inputs s).map Prod.snd

end Sys2Proof.Machine
end

