-- ==== Sys2Proof/Safety.lean ====
section
/-!
DEFINITION. What counts as a safe run, and the vocabulary of the statements: which fields a step writes, the invariants every step
keeps, the legal words of R307, and the parts of a pin trace.
-/

namespace Sys2Proof

open Sys2Proof.Machine

/-- The fields of State, one name for each. -/
inductive Field where
  | cfg | rom | upc | upcCarry | phase | ch | cs | led | wbPosition | wbTurn | vPosition | vTurn | pos | turn | rawp | rawt
  | valid | sclk | mosi | miso | tx | rx | bitcnt | timer | pubReq | pubRelease | pubBuf | pubAck | fault | extraTicks | draws
  deriving DecidableEq, Repr

/-- The field has the same value in both states. -/
def Field.same (f : Field) (s t : State) : Prop :=
  match f with
  | .cfg => t.cfg = s.cfg
  | .rom => t.rom = s.rom
  | .upc => t.upc = s.upc
  | .upcCarry => t.upcCarry = s.upcCarry
  | .phase => t.phase = s.phase
  | .ch => t.ch = s.ch
  | .cs => t.cs = s.cs
  | .led => t.led = s.led
  | .wbPosition => t.wbPosition = s.wbPosition
  | .wbTurn => t.wbTurn = s.wbTurn
  | .vPosition => t.vPosition = s.vPosition
  | .vTurn => t.vTurn = s.vTurn
  | .pos => t.pos = s.pos
  | .turn => t.turn = s.turn
  | .rawp => t.rawp = s.rawp
  | .rawt => t.rawt = s.rawt
  | .valid => t.valid = s.valid
  | .sclk => t.sclk = s.sclk
  | .mosi => t.mosi = s.mosi
  | .miso => t.miso = s.miso
  | .tx => t.tx = s.tx
  | .rx => t.rx = s.rx
  | .bitcnt => t.bitcnt = s.bitcnt
  | .timer => t.timer = s.timer
  | .pubReq => t.pubReq = s.pubReq
  | .pubRelease => t.pubRelease = s.pubRelease
  | .pubBuf => t.pubBuf = s.pubBuf
  | .pubAck => t.pubAck = s.pubAck
  | .fault => t.fault = s.fault
  | .extraTicks => t.extraTicks = s.extraTicks
  | .draws => t.draws = s.draws

/-- Every field but the listed ones has the same value in both states. -/
def OnlyWrites (fs : List Field) (s t : State) : Prop := ∀ f, f ∉ fs → f.same s t

/-- `upc <- upc + 1`, with the carry that marks address 256. -/
def MovesOn (s t : State) : Prop := t.upc = s.upc + 1 ∧ t.upcCarry = (s.upc == 0xFF)

/-- The fields a micro-op may write, a model fault included (R401 to R686). -/
def writtenBy : Instr → List Field
  | .csa => [.cs, .upc, .upcCarry, .fault]
  | .csd => [.cs, .upc, .upcCarry, .fault]
  | .xfer _ discard w _ =>
    [.sclk, .mosi, .tx, .rx, .bitcnt, .upc, .upcCarry, .fault]
      ++ (if discard then [] else match w with | .position => [.wbPosition] | .turn => [.wbTurn])
  | .wait _ => [.timer, .upc, .upcCarry]
  | .chk w => [match w with | .position => .vPosition | .turn => .vTurn, .upc, .upcCarry, .fault]
  | .led => [.led, .valid, .upc, .upcCarry, .fault]
  | .nrm w =>
    (match w with | .position => [.pos, .rawp] | .turn => [.turn, .rawt]) ++ [.upc, .upcCarry, .fault]
  | .chs _ => [.ch, .upc, .upcCarry, .fault]
  | .nxt _ => [.ch, .upc, .upcCarry]
  | .jmp _ => [.upc, .upcCarry]
  | .pub => [.pubBuf, .pubReq, .pubRelease, .upc, .upcCarry, .fault]
  | .go => [.phase, .upc, .upcCarry, .fault]

/-- The words that match a row of R307 and pass the row's field checks. -/
def LegalWord (u : Word) : Prop :=
  u = 0x1000 ∨ u = 0x2000
    ∨ (u &&& 0xF07C = 0x3000 ∧ (u >>> 8 &&& 0xF).toNat ≤ 2 ∧ (u &&& 0x0080 ≠ 0 → u &&& 0x0003 = 0))
    ∨ (u &&& 0xF0FF = 0x4000 ∧ (u >>> 8 &&& 0xF).toNat ≤ 5)
    ∨ u &&& 0xFFFE = 0x5000 ∨ u = 0x6000 ∨ u &&& 0xFFFE = 0x7000
    ∨ u &&& 0xFF00 = 0x8000 ∨ u &&& 0xFF00 = 0x9000 ∨ u &&& 0xFF00 = 0xA000
    ∨ u = 0xB000 ∨ u = 0xC000

/-- How many of the word's bits are 1. -/
def onesCount (x : Word) : Nat := ((List.range 16).filter x.getLsbD).length

/-- A safe state: no model fault is recorded (R115, R711). -/
def Safe (s : State) : Prop := s.fault = FaultSet.none

/-- Every register array has length N (R109). -/
def Shaped (s : State) : Prop :=
  s.cs.length = s.cfg.n ∧ s.led.length = s.cfg.n ∧ s.pos.length = s.cfg.n ∧ s.turn.length = s.cfg.n
    ∧ s.rawp.length = s.cfg.n ∧ s.rawt.length = s.cfg.n ∧ s.valid.length = s.cfg.n ∧ s.pubBuf.length = s.cfg.n

/-- At most one `CS[i]` is 1 (R103, R403). -/
def SingleSelection (s : State) : Prop := ∀ i j, s.selected i = true → s.selected j = true → i = j

/-- A value that a written entry of the channel array may have (R109). -/
def LegalReading (x : Word) : Prop := x.toNat ≤ 0x3FFF ∨ x = 0x7FFF

/-- Every written entry of `POS`, `TURN` and `PUB_BUF` is a legal reading. -/
def ReadingsLegal (s : State) : Prop :=
  ∀ x, (some x ∈ s.pos ∨ some x ∈ s.turn ∨ some x ∈ s.pubBuf) → LegalReading x

/-- The micro-op at `upc`, whatever `FAULT` holds. -/
def currentOp (s : State) : Option Instr :=
  if s.upcCarry then none
  else
    match s.rom[s.upc.toNat]? with
    | none => none
    | some u => match decodeWord u with
      | .ok i => some i
      | .illegal _ => none

/-- Each of the three holds (R731) belongs to the micro-op at `upc`: the exchange to an XFER whose checks have passed, the timer to
a WAIT, the handshake to a PUB; and the shifter's registers are written while they are in use. -/
def HoldsOwned (s : State) : Prop :=
  (s.exchanging = true → ∃ c discard w k, currentOp s = some (.xfer c discard w k)
      ∧ s.channelOk = true ∧ s.selected s.channel = true ∧ (discard = false → turnForbidden s.cfg w = false)
      ∧ s.tx.isSome = true ∧ s.rx.isSome = true)
    ∧ (s.timer ≠ 0 → ∃ d, currentOp s = some (.wait d))
    ∧ (s.pubReq = true ∨ s.pubRelease = true → currentOp s = some .pub)
    ∧ ¬ (s.pubReq = true ∧ s.pubRelease = true)
    ∧ s.bitcnt ≤ 8 ∧ (s.sclk = true → s.bitcnt < 8)

/-- In SINGLE_TURN mode the turn word's state is never written (R109). -/
def TurnUnused (s : State) : Prop :=
  s.cfg.mode = .singleTurn →
    s.wbTurn = ⟨none, none⟩ ∧ s.vTurn = none ∧ (∀ x ∈ s.turn, x = none) ∧ (∀ x ∈ s.rawt, x = none)

/-- Every delay that a WAIT in the ROM names has a tick count that fits `TIMER` (R113). -/
def WaitsFit (s : State) : Prop :=
  ∀ d, Decoded.ok (.wait d) ∈ s.rom.map decodeWord → waitTicks s.cfg d < 2 ^ s.cfg.timerWidth

/-- The bits an XFER samples when it starts with `first` on `MISO` and the environment drives `inputs` after its steps: bit cell
`i ≥ 1` samples what was driven after step `2 i - 1`. -/
def sampledBits (first : Bool) (inputs : List Inputs) : List Bool :=
  first :: (List.range 7).map fun i => (inputs.getD (2 * i + 1) default).miso

/-- The byte that eight sampled bits make, the first one most significant (R455). -/
def receivedByte (bits : List Bool) : Byte := BitVec.ofNat 8 (bits.foldl (fun n b => 2 * n + b.toNat) 0)

/-- The `CS_ON` and `PUB_REQ(1)` events of a trace, in order. -/
def cycleEvents (trace : List PinEvent) : List PinEvent :=
  trace.filter fun e =>
    match e with
    | .csOn _ => true
    | .pubReq b => b
    | _ => false

/-- The bits a trace samples, in order. -/
def samples (trace : List PinEvent) : List Bool :=
  trace.filterMap fun e =>
    match e with
    | .sample b => some b
    | _ => none

/-- A word's bits as they come on `MISO`: bit 15 first (R206). -/
def wordBits (x : Word) : List Bool := (List.range 16).map fun n => x.getLsbD (15 - n)

/-- The levels a trace drives on `MOSI`, in order. -/
def drivenBits (trace : List PinEvent) : List Bool :=
  trace.filterMap fun e =>
    match e with
    | .mosi b => some b
    | _ => none

/-- A byte's bits as they go out on `MOSI`: bit 7 first (R205). -/
def byteBits (b : Byte) : List Bool := (List.range 8).map fun n => b.getLsbD (7 - n)

/-- How many selections a trace holds. -/
def countSelections (trace : List PinEvent) : Nat :=
  (trace.filter fun e =>
    match e with
    | .csOn _ => true
    | _ => false).length

/-- `body` is what a trace holds between the `CS_ON(i)` and the `CS_OFF(i)` of its last selection of channel `i`. -/
def LastSelection (i : Nat) (trace body : List PinEvent) : Prop :=
  ∃ before after, trace = before ++ .csOn i :: (body ++ .csOff i :: after)
    ∧ .csOff i ∉ body ∧ .csOn i ∉ body ∧ .csOn i ∉ after

/-- `cycle` is what a trace holds since the last publication's `PUB_REQ(0)`, or since power-up, without the `PUB_REQ` events of the
PUB at which the run stands in `s`. -/
def ThisCycle (s : State) (trace cycle : List PinEvent) : Prop :=
  ∃ before,
    trace = before ++ (cycle
      ++ if s.pubReq then [.pubReq true] else if s.pubRelease then [.pubReq true, .pubReq false] else [])
    ∧ (before = [] ∨ before.getLast? = some (.pubReq false)) ∧ ∀ b, PinEvent.pubReq b ∉ cycle

/-- One cycle's `CS_ON` and `PUB_REQ(1)` events: channels 0..N-1 in order, then the publication (R695). -/
def oneCycle (n : Nat) : List PinEvent := (List.range n).map PinEvent.csOn ++ [PinEvent.pubReq true]

/-- The block with this configuration and the ROM R690 builds from it, right after reset. -/
def poweredUp (cfg : Config) (inp : Inputs) : State := State.powerUp cfg (buildRom cfg) inp

/-- How many events of a kind a stamped trace holds. -/
def countEvents (e : PinEvent) (trace : List (ℚ × PinEvent)) : Nat := (trace.filter fun x => x.2 == e).length

/-- None of the events of a stamped trace is `e`. -/
def Without (e : PinEvent) (trace : List (ℚ × PinEvent)) : Prop := ∀ x ∈ trace, x.2 ≠ e

end Sys2Proof
end

