-- ==== Sys2Proof/Certificates/Slice0/Obligations.lean ====
section
/-!
DEFINITION. The statements for the provers, from the numbered rules of spec/. A statement about runs from power-up is about the
block's own ROM (R690), which every configuration fixes, for every configuration, every environment and every length of run.
-/

open Sys2Proof Sys2Proof.Machine

/-! ### Encoding -/

/-- R307, R308: the decoder reads back every well-formed micro-op, with every operand. -/
def Obligations.DecodeOfEncode : Prop :=
  ∀ i : Instr, i.wellFormed = true → decodeWord (encode i) = .ok i

/-- Each legal word has one reading: what the decoder accepts is the encoding of what it answers. -/
def Obligations.EncodeOfDecode : Prop :=
  ∀ (u : Word) (i : Instr), decodeWord u = .ok i → i.wellFormed = true ∧ encode i = u

/-- R307, R309: the decoder accepts exactly the words of the opcode map that pass their row's field checks. -/
def Obligations.DecoderAcceptsTableRows : Prop :=
  ∀ u : Word, (∃ i, decodeWord u = .ok i) ↔ LegalWord u

/-- A few words of R312's syntax table and of 95 §2.11, written out, are the micro-ops they stand for. -/
def Obligations.SpecWordsDecode : Prop :=
  decodeWord 0x1000 = .ok .csa ∧ decodeWord 0x2000 = .ok .csd
    ∧ decodeWord 0x3103 = .ok (.xfer .readTurn false .turn .hi)
    ∧ decodeWord 0x3280 = .ok (.xfer .zeroSet true .position .lo)
    ∧ decodeWord 0x4500 = .ok (.wait .zero) ∧ decodeWord 0x5001 = .ok (.chk .turn) ∧ decodeWord 0x6000 = .ok .led
    ∧ decodeWord 0x7000 = .ok (.nrm .position) ∧ decodeWord 0x80FF = .ok (.chs 0xFF)
    ∧ decodeWord 0x9002 = .ok (.nxt 2) ∧ decodeWord 0xA001 = .ok (.jmp 1) ∧ decodeWord 0xB000 = .ok .pub
    ∧ decodeWord 0xC000 = .ok .go ∧ decodeWord 0x0000 = .illegal .reservedOpcode

/-- R309, R690: every word of every ROM image decodes to the micro-op it was built from; the image has `base + 17` or `base + 23`
words, and a configuration that meets R10 keeps it within 256. -/
def Obligations.RomImageDecodes : Prop :=
  ∀ cfg : Config,
    (buildRom cfg).map decodeWord = (romOps cfg).map Decoded.ok
      ∧ (cfg.mode = .singleTurn → (buildRom cfg).length = 10 * cfg.zeroSetChannels.length + 17)
      ∧ (cfg.mode = .multiTurn → (buildRom cfg).length = 10 * cfg.zeroSetChannels.length + 23)
      ∧ (configOk cfg = true → (buildRom cfg).length ≤ 256)

/-! ### Parity and normalization -/

/-- R504: the equivalent form of the parity check. -/
def Obligations.ParityIsTwoOddPopcounts : Prop :=
  ∀ x : Word, parityValid x = true ↔ onesCount (x &&& 0xAAAA) % 2 = 1 ∧ onesCount (x &&& 0x5555) % 2 = 1

/-- R506, first bullet: one pair of parity bits makes a data value valid. -/
def Obligations.OneParityPairPerDataValue : Prop :=
  ∀ (k1 k0 : Bool) (d : BitVec 14),
    parityValid (BitVec.ofBool k1 ++ BitVec.ofBool k0 ++ d) = true
      ↔ k1 = k1Expected (d.setWidth 16) ∧ k0 = k0Expected (d.setWidth 16)

/-- R506, the other bullets: one flipped bit invalidates a valid word; two flipped bits leave it valid exactly when they are of the
same parity group. -/
def Obligations.ParitySeesBitFlips : Prop :=
  ∀ x : Word, parityValid x = true →
    (∀ i < 16, parityValid (x ^^^ (1#16 <<< i)) = false)
      ∧ ∀ i < 16, ∀ j < 16, i ≠ j →
        (parityValid (x ^^^ (1#16 <<< i) ^^^ (1#16 <<< j)) = true ↔ i % 2 = j % 2)

/-- R552, R554: the normalizer keeps bits 13..0 of a valid word, answers 0x7FFF for an invalid one, and never confuses the two. -/
def Obligations.NormalizeMasksOrMarks : Prop :=
  ∀ x : Word,
    (∀ i < 16, (normalize x true).getLsbD i = (decide (i < 14) && x.getLsbD i))
      ∧ normalize x false = 0x7FFF
      ∧ (normalize x true).toNat ≤ 0x3FFF
      ∧ (∀ v, normalize x v = 0x7FFF ↔ v = false)

/-! ### The micro-ops -/

/-- R14, R694: raising a model fault adds its code to FAULT and writes nothing else. -/
def Obligations.RaiseRecordsOnlyTheFault : Prop :=
  ∀ (s : State) (c : FaultCode),
    OnlyWrites [.fault] s (s.raise c) ∧ ∀ d, (s.raise c).fault.has d = (s.fault.has d || decide (d = c))

/-- R401: CSA faults F3, then F4, else it selects the current channel and nothing else; the clock is idle at every CSA. -/
def Obligations.CsaSelectsCurrentChannel : Prop :=
  encode .csa = 0x1000 ∧ ∀ s : State,
    (s.cfg.n ≤ s.ch.toNat → exec .csa s = .next (s.raise .chRange))
      ∧ (s.ch.toNat < s.cfg.n → (∃ i < s.cfg.n, s.selected i = true) → exec .csa s = .next (s.raise .csConflict))
      ∧ (Shaped s → s.ch.toNat < s.cfg.n → (∀ i < s.cfg.n, s.selected i = false) →
        ∃ t, exec .csa s = .next t ∧ t.selected s.ch.toNat = true ∧ t.selectLevel s.ch.toNat = s.cfg.csActiveLevel
          ∧ (∀ j, j ≠ s.ch.toNat → t.selected j = s.selected j) ∧ MovesOn s t
          ∧ OnlyWrites [.cs, .upc, .upcCarry] s t)
      ∧ (HoldsOwned s → fetch s = .run .csa → s.sclk = false)

/-- R411: CSD faults F3, then F5, else it deselects the current channel and nothing else; it never happens during an XFER. -/
def Obligations.CsdDeselectsCurrentChannel : Prop :=
  encode .csd = 0x2000 ∧ ∀ s : State,
    (s.cfg.n ≤ s.ch.toNat → exec .csd s = .next (s.raise .chRange))
      ∧ (s.ch.toNat < s.cfg.n → s.selected s.ch.toNat = false → exec .csd s = .next (s.raise .csNotSelected))
      ∧ (s.ch.toNat < s.cfg.n → s.selected s.ch.toNat = true →
        ∃ t, exec .csd s = .next t ∧ t.selected s.ch.toNat = false ∧ t.selectLevel s.ch.toNat = !s.cfg.csActiveLevel
          ∧ (∀ j, j ≠ s.ch.toNat → t.selected j = s.selected j) ∧ MovesOn s t
          ∧ OnlyWrites [.cs, .upc, .upcCarry] s t)
      ∧ (HoldsOwned s → fetch s = .run .csd → s.exchanging = false)

/-- R421, R422, each step of a WAIT: it loads TIMER, counts a tick, and completes when TIMER reaches 0. One step a tick is the
model's granularity (log 8). -/
def Obligations.WaitCountsTicks : Prop :=
  ∀ (s : State) (d : Delay),
    (1 < s.timer → ∃ t, exec (.wait d) s = .next t ∧ t.timer = s.timer - 1 ∧ OnlyWrites [.timer] s t)
      ∧ (s.timer = 0 → 0 < loadTicks s.cfg d s.extraTicks →
        ∃ t, exec (.wait d) s = .next t ∧ t.timer = loadTicks s.cfg d s.extraTicks ∧ OnlyWrites [.timer] s t)
      ∧ (s.timer = 1 ∨ (s.timer = 0 ∧ loadTicks s.cfg d s.extraTicks = 0) →
        ∃ t, exec (.wait d) s = .next t ∧ t.timer = 0 ∧ MovesOn s t ∧ OnlyWrites [.timer, .upc, .upcCarry] s t)

/-- R421, R422: a WAIT that starts holds for all of its ticks, whatever the environment does, and then completes. -/
def Obligations.WaitHoldsThenCompletes : Prop :=
  ∀ (s : State) (d : Delay) (inputs : List Inputs), s.timer = 0 →
    (inputs.length = loadTicks s.cfg d s.extraTicks + 1 →
      ∃ t, execWith (.wait d) inputs s = .next t ∧ t.timer = 0 ∧ MovesOn s t
        ∧ OnlyWrites [.upc, .upcCarry, .miso, .mosi, .pubAck, .extraTicks] s t)
      ∧ (inputs.length ≤ loadTicks s.cfg d s.extraTicks →
        ∃ t, execWith (.wait d) inputs s = .next t
          ∧ OnlyWrites [.timer, .miso, .mosi, .pubAck, .extraTicks] s t)

/-- R306, the delay each selector names; and R422: the ticks a WAIT loads are at least `ceil(T · F_TICK / 10^6)` and last at least `T`, and they fit a TIMER that holds the
least count. -/
def Obligations.WaitTicksCoverTheDelay : Prop :=
  (∀ cfg : Config, delayTime cfg .settle = cfg.tSettle ∧ delayTime cfg .turn = cfg.tTurn ∧ delayTime cfg .hold = cfg.tHold
      ∧ delayTime cfg .csIdle = cfg.tCsIdle ∧ delayTime cfg .cycle = cfg.tCycle ∧ delayTime cfg .zero = cfg.tZero)
    ∧ ∀ (cfg : Config) (d : Delay) (extra : Nat), 0 < cfg.fTick → 0 ≤ delayTime cfg d →
    ⌈delayTime cfg d * cfg.fTick / 1000000⌉₊ ≤ loadTicks cfg d extra
      ∧ delayTime cfg d ≤ (loadTicks cfg d extra : ℚ) * (1000000 / cfg.fTick)
      ∧ loadTicks cfg d 0 = ⌈delayTime cfg d * cfg.fTick / 1000000⌉₊
      ∧ (waitTicks cfg d < 2 ^ cfg.timerWidth → loadTicks cfg d extra < 2 ^ cfg.timerWidth)

/-- R461: an XFER that starts checks F3, F5 and F7 in that order. -/
def Obligations.XferChecksInOrder : Prop :=
  ∀ (s : State) (c : Command) (discard : Bool) (w : WordSel) (k : ByteSel), s.exchanging = false →
    (s.cfg.n ≤ s.ch.toNat → exec (.xfer c discard w k) s = .next (s.raise .chRange))
      ∧ (s.ch.toNat < s.cfg.n → s.selected s.ch.toNat = false →
        exec (.xfer c discard w k) s = .next (s.raise .csNotSelected))
      ∧ (s.ch.toNat < s.cfg.n → s.selected s.ch.toNat = true → discard = false → w = .turn → s.cfg.mode = .singleTurn →
        exec (.xfer c discard w k) s = .next (s.raise .mode))

/-- R305, the byte each command selector sends; and R451, R453, R454, each half of a bit cell but the last: `MOSI` carries `tx[7 - i]` and `rx[7 - i]` is latched at the rising edge,
and the falling edge counts the bit. The model's choices in it: one step a half cell (log 5), the other bits of `RX` kept (log 7), the
whole command byte kept in `TX` (log 26), `BITCNT` counting at the falling edge (log 6). -/
def Obligations.XferClocksBitCells : Prop :=
  (∀ cfg : Config, commandByte cfg .read = cfg.cmdRead ∧ commandByte cfg .readTurn = cfg.cmdReadTurn
      ∧ commandByte cfg .zeroSet = cfg.cmdZeroSet)
    ∧ ∀ (s : State) (c : Command) (discard : Bool) (w : WordSel) (k : ByteSel),
    (s.exchanging = false → s.ch.toNat < s.cfg.n → s.selected s.ch.toNat = true →
        (discard = true ∨ w = .position ∨ s.cfg.mode = .multiTurn) →
      ∃ t r, exec (.xfer c discard w k) s = .next t ∧ t.sclk = true ∧ t.bitcnt = 0
        ∧ t.tx = some (commandByte s.cfg c) ∧ t.mosi = (commandByte s.cfg c).getLsbD 7
        ∧ t.rx = some r ∧ r.getLsbD 7 = s.miso ∧ OnlyWrites [.sclk, .bitcnt, .tx, .rx, .mosi] s t)
      ∧ (∀ tx rx, s.sclk = false → 0 < s.bitcnt → s.bitcnt < 8 → s.tx = some tx → s.rx = some rx →
        ∃ t r, exec (.xfer c discard w k) s = .next t ∧ t.sclk = true ∧ t.mosi = tx.getLsbD (7 - s.bitcnt)
          ∧ t.rx = some r ∧ (∀ j < 8, r.getLsbD j = if j = 7 - s.bitcnt then s.miso else rx.getLsbD j)
          ∧ OnlyWrites [.sclk, .rx, .mosi] s t)
      ∧ (s.sclk = true → s.bitcnt < 7 →
        ∃ t, exec (.xfer c discard w k) s = .next t ∧ t.sclk = false ∧ t.bitcnt = s.bitcnt + 1
          ∧ OnlyWrites [.sclk, .bitcnt] s t)

/-- R461, R422: at its last falling edge an XFER stores the received byte in `WB[w][k]`, unless it discards it, and completes. That
`BITCNT` then reads 8 is the model's choice (log 6). -/
def Obligations.XferStoresTheByte : Prop :=
  ∀ (s : State) (c : Command) (discard : Bool) (w : WordSel) (k : ByteSel) (b : Byte),
    s.sclk = true → s.bitcnt = 7 → s.rx = some b →
      ∃ t, exec (.xfer c discard w k) s = .next t ∧ t.sclk = false ∧ t.bitcnt = 8 ∧ MovesOn s t
        ∧ (∀ w' k', t.byteAt w' k' = if discard = false ∧ w' = w ∧ k' = k then some b else s.byteAt w' k')
        ∧ OnlyWrites [.sclk, .bitcnt, .wbPosition, .wbTurn, .upc, .upcCarry] s t

/-- R451, R455, R458, R461 (and D28): run to its end, the bit-serial XFER is one atomic exchange: it sends the command byte most
significant bit first, and the byte it stores is the eight sampled bits, the first most significant. One step a half
cell (log 5) and `BITCNT` reading 8 afterwards (log 6) are the model's choices. -/
def Obligations.XferExchangesOneByte : Prop :=
  ∀ (s : State) (c : Command) (discard : Bool) (w : WordSel) (k : ByteSel) (inputs : List Inputs),
    s.exchanging = false → s.ch.toNat < s.cfg.n → s.selected s.ch.toNat = true →
    (discard = true ∨ w = .position ∨ s.cfg.mode = .multiTurn) → inputs.length = 16 →
      (∃ t, execWith (.xfer c discard w k) inputs s = .next t ∧ MovesOn s t ∧ t.sclk = false ∧ t.bitcnt = 8
        ∧ (∀ w' k', t.byteAt w' k' =
          if discard = false ∧ w' = w ∧ k' = k then some (receivedByte (sampledBits s.miso inputs)) else s.byteAt w' k')
        ∧ OnlyWrites [.wbPosition, .wbTurn, .upc, .upcCarry, .bitcnt, .tx, .rx, .miso, .mosi, .pubAck, .extraTicks] s t)
      ∧ ∀ i < 8, ∃ u, execWith (.xfer c discard w k) (inputs.take (2 * i + 1)) s = .next u ∧ u.sclk = true
        ∧ u.mosi = (commandByte s.cfg c).getLsbD (7 - i) ∧ u.upc = s.upc ∧ u.cs = s.cs

/-- R501: CHK faults F7, then F6, else it writes the parity validity of the word to its flag. -/
def Obligations.ChkWritesValidity : Prop :=
  encode (.chk .position) = 0x5000 ∧ encode (.chk .turn) = 0x5001
    ∧ parityValid 0x0000 = false ∧ parityValid 0xFFFF = false ∧ parityValid 0x7FFF = false ∧ ∀ (s : State) (w : WordSel),
    (w = .turn → s.cfg.mode = .singleTurn → exec (.chk w) s = .next (s.raise .mode))
      ∧ ((w = .position ∨ s.cfg.mode = .multiTurn) → (s.byteAt w .hi = none ∨ s.byteAt w .lo = none) →
        exec (.chk w) s = .next (s.raise .unwritten))
      ∧ (∀ b1 b0, (w = .position ∨ s.cfg.mode = .multiTurn) → s.byteAt w .hi = some b1 → s.byteAt w .lo = some b0 →
        ∃ t, exec (.chk w) s = .next t ∧ t.validity w = some (parityValid (b1 ++ b0))
          ∧ (∀ w', w' ≠ w → t.validity w' = s.validity w') ∧ MovesOn s t
          ∧ OnlyWrites [.vPosition, .vTurn, .upc, .upcCarry] s t)

/-- R601, R602: LED faults F3, then F6, else indicator and validity record of the current channel take the flag, or under BOTH in
multi-turn mode the conjunction of the two flags. -/
def Obligations.LedShowsValidity : Prop :=
  encode .led = 0x6000 ∧ ∀ s : State,
    (s.cfg.n ≤ s.ch.toNat → exec .led s = .next (s.raise .chRange))
      ∧ (s.ch.toNat < s.cfg.n →
          (s.vPosition = none ∨ (s.cfg.mode = .multiTurn ∧ s.cfg.ledPolicy = .both ∧ s.vTurn = none)) →
        exec .led s = .next (s.raise .unwritten))
      ∧ (∀ v0 b, Shaped s → s.ch.toNat < s.cfg.n → s.vPosition = some v0 →
          (if s.cfg.mode = .multiTurn ∧ s.cfg.ledPolicy = .both then ∃ v1, s.vTurn = some v1 ∧ b = (v0 && v1) else b = v0) →
        ∃ t, exec .led s = .next t ∧ t.lit s.ch.toNat = b ∧ t.validAt s.ch.toNat = some b
          ∧ t.indicatorLevel s.ch.toNat = b
          ∧ (∀ j, j ≠ s.ch.toNat → t.lit j = s.lit j ∧ t.validAt j = s.validAt j) ∧ MovesOn s t
          ∧ OnlyWrites [.led, .valid, .upc, .upcCarry] s t)

/-- R551: NRM faults F3, F7, F6 in that order, else it stores the normalized word and the raw word of the current channel. -/
def Obligations.NrmStoresReading : Prop :=
  encode (.nrm .position) = 0x7000 ∧ encode (.nrm .turn) = 0x7001 ∧ ∀ (s : State) (w : WordSel),
    (s.cfg.n ≤ s.ch.toNat → exec (.nrm w) s = .next (s.raise .chRange))
      ∧ (s.ch.toNat < s.cfg.n → w = .turn → s.cfg.mode = .singleTurn → exec (.nrm w) s = .next (s.raise .mode))
      ∧ (s.ch.toNat < s.cfg.n → (w = .position ∨ s.cfg.mode = .multiTurn) →
          (s.byteAt w .hi = none ∨ s.byteAt w .lo = none ∨ s.validity w = none) →
        exec (.nrm w) s = .next (s.raise .unwritten))
      ∧ (∀ b1 b0 v, Shaped s → s.ch.toNat < s.cfg.n → (w = .position ∨ s.cfg.mode = .multiTurn) →
          s.byteAt w .hi = some b1 → s.byteAt w .lo = some b0 → s.validity w = some v →
        ∃ t, exec (.nrm w) s = .next t
          ∧ (w = .position → t.posAt s.ch.toNat = some (normalize (b1 ++ b0) v)
            ∧ t.rawpAt s.ch.toNat = some (b1 ++ b0) ∧ t.turn = s.turn ∧ t.rawt = s.rawt)
          ∧ (w = .turn → t.turnAt s.ch.toNat = some (normalize (b1 ++ b0) v)
            ∧ t.rawtAt s.ch.toNat = some (b1 ++ b0) ∧ t.pos = s.pos ∧ t.rawp = s.rawp)
          ∧ (∀ j, j ≠ s.ch.toNat → t.posAt j = s.posAt j ∧ t.rawpAt j = s.rawpAt j ∧ t.turnAt j = s.turnAt j
            ∧ t.rawtAt j = s.rawtAt j)
          ∧ MovesOn s t ∧ OnlyWrites [.pos, .rawp, .turn, .rawt, .upc, .upcCarry] s t)

/-- R651: CHS faults F3 when `n ≥ N`, else it sets the current channel. -/
def Obligations.ChsSetsChannel : Prop :=
  ∀ (s : State) (n : Byte),
    encode (.chs n) = 0x8000 ||| n.setWidth 16 ∧ (s.cfg.n ≤ n.toNat → exec (.chs n) s = .next (s.raise .chRange))
      ∧ (n.toNat < s.cfg.n →
        ∃ t, exec (.chs n) s = .next t ∧ t.ch = n ∧ MovesOn s t ∧ OnlyWrites [.ch, .upc, .upcCarry] s t)

/-- R661: NXT goes to the next channel and to `t` while `CH + 1 < N`, computed without wrap-around, else it falls through; a target
outside the ROM faults at the next fetch. -/
def Obligations.NxtLoopsOverChannels : Prop :=
  ∀ (s : State) (a : Addr),
    encode (.nxt a) = 0x9000 ||| a.setWidth 16 ∧ (s.ch.toNat + 1 < s.cfg.n → s.cfg.n ≤ 256 →
        ∃ t, exec (.nxt a) s = .next t ∧ t.ch.toNat = s.ch.toNat + 1 ∧ t.upc = a ∧ t.upcCarry = false
          ∧ (configOk s.cfg = true → s.fault = FaultSet.none → s.rom.length ≤ a.toNat → fetch t = .raises .upcRange)
          ∧ OnlyWrites [.ch, .upc, .upcCarry] s t)
      ∧ (s.cfg.n ≤ s.ch.toNat + 1 →
        ∃ t, exec (.nxt a) s = .next t ∧ MovesOn s t ∧ OnlyWrites [.upc, .upcCarry] s t)

/-- R671: JMP goes to its target and writes nothing else; a target outside the ROM faults at the next fetch. -/
def Obligations.JmpGoesToTarget : Prop :=
  ∀ (s : State) (a : Addr), encode (.jmp a) = 0xA000 ||| a.setWidth 16 ∧
    ∃ t, exec (.jmp a) s = .next t ∧ t.upc = a ∧ t.upcCarry = false
      ∧ (configOk s.cfg = true → s.fault = FaultSet.none → s.rom.length ≤ a.toNat → fetch t = .raises .upcRange)
      ∧ OnlyWrites [.upc, .upcCarry] s t

/-- R681: PUB faults F6 on an unwritten entry, else it copies the whole array and raises `PUB_REQ`; it holds until `PUB_ACK = 1`,
drops `PUB_REQ`, holds until `PUB_ACK = 0`, and completes. -/
def Obligations.PubHandsOverTheArray : Prop :=
  ∀ s : State,
    (s.pubReq = false → s.pubRelease = false → (∃ i < s.cfg.n, s.posAt i = none) →
        exec .pub s = .next (s.raise .unwritten))
      ∧ (s.pubReq = false → s.pubRelease = false → (∀ i < s.cfg.n, s.posAt i ≠ none) →
        ∃ t, exec .pub s = .next t ∧ t.pubReq = true ∧ t.pubBuf.length = s.cfg.n
          ∧ (∀ i < s.cfg.n, t.publishedAt i = s.posAt i) ∧ OnlyWrites [.pubBuf, .pubReq] s t)
      ∧ (s.pubReq = true → s.pubAck = false → exec .pub s = .next s)
      ∧ (s.pubReq = true → s.pubAck = true →
        ∃ t, exec .pub s = .next t ∧ t.pubReq = false ∧ t.pubRelease = true ∧ OnlyWrites [.pubReq, .pubRelease] s t)
      ∧ (s.pubReq = false → s.pubRelease = true → s.pubAck = true → exec .pub s = .next s)
      ∧ (s.pubReq = false → s.pubRelease = true → s.pubAck = false →
        ∃ t, exec .pub s = .next t ∧ t.pubRelease = false ∧ MovesOn s t
          ∧ OnlyWrites [.pubRelease, .upc, .upcCarry] s t)

/-- R686: GO makes the one transition from Idle to Cycling, and faults F8 in Cycling. -/
def Obligations.GoStartsCyclingOnce : Prop :=
  encode .go = 0xC000 ∧ ∀ s : State,
    (s.phase = .cycling → exec .go s = .next (s.raise .phase))
      ∧ (s.phase = .idle →
        ∃ t, exec .go s = .next t ∧ t.phase = .cycling ∧ MovesOn s t ∧ OnlyWrites [.phase, .upc, .upcCarry] s t)

/-- R823, R603, R507: CHK, LED and NRM on a received position word, in the order of the ROM: the indicator shows the parity of the raw
word and the entry holds the normalized word, whatever the parity is. -/
def Obligations.CheckLedNormalizePosition : Prop :=
  ∀ (s : State) (b1 b0 : Byte), Shaped s → s.ch.toNat < s.cfg.n →
    s.wbPosition = ⟨some b1, some b0⟩ → (s.cfg.mode = .singleTurn ∨ s.cfg.ledPolicy = .positionOnly) →
      ∃ t1 t2 t3, exec (.chk .position) s = .next t1 ∧ exec .led t1 = .next t2 ∧ exec (.nrm .position) t2 = .next t3
        ∧ t3.lit s.ch.toNat = parityValid (b1 ++ b0)
        ∧ t3.posAt s.ch.toNat = some (if parityValid (b1 ++ b0) = true then (b1 ++ b0 : Word) &&& 0x3FFF else 0x7FFF)
        ∧ t3.rawpAt s.ch.toNat = some (b1 ++ b0) ∧ t3.upc = s.upc + 3 ∧ t3.fault = s.fault

/-! ### Frames over all micro-ops -/

/-- `exec` answers a next state for every micro-op in every state (R701, R741). That a micro-op which raises a model fault answers one
too is the model's reading (log 3); `step` answers that there is no step once a fault is recorded. -/
def Obligations.EveryMicroOpAnswersNext : Prop := ∀ (i : Instr) (s : State), ∃ t, exec i s = .next t

/-- R212, R401 to R686: each micro-op writes only its own fields. -/
def Obligations.EachMicroOpWritesOnlyItsFields : Prop :=
  ∀ (i : Instr) (s t : State), exec i s = .next t → OnlyWrites (writtenBy i) s t

/-- R203: the channel arrays are only ever written at index CH. -/
def Obligations.ArraysWrittenOnlyAtCurrentChannel : Prop :=
  ∀ (i : Instr) (s t : State), exec i s = .next t → ∀ j, j ≠ s.ch.toNat →
    t.selected j = s.selected j ∧ t.lit j = s.lit j ∧ t.validAt j = s.validAt j ∧ t.posAt j = s.posAt j
      ∧ t.turnAt j = s.turnAt j ∧ t.rawpAt j = s.rawpAt j ∧ t.rawtAt j = s.rawtAt j

/-- R694, R721: a micro-op that raises a model fault has written nothing else, and raises one fault. -/
def Obligations.FaultingMicroOpWritesNothing : Prop :=
  ∀ (i : Instr) (s t : State), exec i s = .next t → t.fault ≠ s.fault → ∃ c, t = s.raise c

/-! ### The step -/

/-- R694: a step runs the micro-op that the word at `upc` decodes to, and then the environment moves. -/
def Obligations.StepRunsDecodedMicroOp : Prop :=
  ∀ (s : State) (u : Word) (i : Instr), configOk s.cfg = true → s.fault = FaultSet.none → s.upcCarry = false →
    s.rom[s.upc.toNat]? = some u → decodeWord u = .ok i →
      ∃ t, exec i s = .next t ∧ step s = .next t.environment ∧ ∀ inp, stepWith inp s = .next (t.drive inp)

/-- R694, R721: a faulted state has no step; else a fetch outside the ROM raises F2; else an illegal word raises F1. -/
def Obligations.FetchFaultsInOrder : Prop :=
  ∀ s : State, configOk s.cfg = true →
    (s.fault ≠ FaultSet.none → step s = .fault (.noStep s.fault))
      ∧ (s.fault = FaultSet.none → (s.upcCarry = true ∨ s.rom.length ≤ s.upc.toNat) →
        step s = .next (s.raise .upcRange).environment)
      ∧ (∀ u why, s.fault = FaultSet.none → s.upcCarry = false → s.rom[s.upc.toNat]? = some u →
          decodeWord u = .illegal why → step s = .next (s.raise .illegalUop).environment)

/-- R10, R803: the conditions a well-formed configuration meets; an ill-formed one has no run. R10 says 'only if': that these conditions
are enough, so that a configuration with a TIMER narrower than R113 asks (log 17), F_TICK <= 0 (log 25) or F_RELAY <= 0 (log 27) is
accepted, is the model's choice. -/
def Obligations.IllFormedConfigHasNoRun : Prop :=
  (∀ cfg : Config, configOk cfg = true ↔
      (1 ≤ cfg.n ∧ cfg.n ≤ 256 ∧ cfg.selectPins.length = cfg.n ∧ cfg.indicatorPins.length = cfg.n
        ∧ (∀ c ∈ cfg.zeroSetChannels, c < cfg.n) ∧ cfg.zeroSetChannels.Nodup ∧ (buildRom cfg).length ≤ 256
        ∧ (∀ d, 0 ≤ delayTime cfg d) ∧ 0 < cfg.fAcq))
    ∧ ∀ s : State, configOk s.cfg = false → step s = .refused .illFormedConfig

/-- R101, R747: between two steps the environment moves the block's inputs and the undriven `MOSI` level, and the relay never raises
`PUB_ACK` while `PUB_REQ = 0` and its previous ack is low. -/
def Obligations.EnvironmentKeepsToItsPorts : Prop :=
  ∀ (s : State) (inp : Inputs),
    OnlyWrites [.miso, .mosi, .pubAck, .extraTicks] s (s.drive inp)
      ∧ (s.exchanging = true → (s.drive inp).mosi = s.mosi)
      ∧ (s.pubReq = false → s.pubAck = false → (s.drive inp).pubAck = false)
      ∧ OnlyWrites [.miso, .mosi, .pubAck, .extraTicks, .draws] s s.environment
      ∧ (s.exchanging = true → s.environment.mosi = s.mosi)
      ∧ (s.pubReq = false → s.pubAck = false → s.environment.pubAck = false)

/-- R103, R104, R605: the levels on the select and indicator pins. -/
def Obligations.PinsFollowSelectAndIndicator : Prop :=
  ∀ (s : State) (i : Nat),
    (s.selected i = true → s.selectLevel i = s.cfg.csActiveLevel)
      ∧ (s.selected i = false → s.selectLevel i = !s.cfg.csActiveLevel)
      ∧ (s.indicatorLevel i = true ↔ s.lit i = true)

/-! ### Reset -/

/-- R801: the state after reset. -/
def Obligations.ResetLeavesTheTable : Prop :=
  ∀ (cfg : Config) (rom : List Word) (inp : Inputs),
    (State.powerUp cfg rom inp).upc = 0 ∧ (State.powerUp cfg rom inp).phase = .idle ∧ (State.powerUp cfg rom inp).ch = 0
      ∧ (∀ i, (State.powerUp cfg rom inp).selected i = false ∧ (State.powerUp cfg rom inp).selectLevel i = !cfg.csActiveLevel
        ∧ (State.powerUp cfg rom inp).lit i = false ∧ (State.powerUp cfg rom inp).indicatorLevel i = false)
      ∧ (State.powerUp cfg rom inp).sclk = false ∧ (State.powerUp cfg rom inp).pubReq = false
      ∧ (State.powerUp cfg rom inp).bitcnt = 0 ∧ (State.powerUp cfg rom inp).timer = 0
      ∧ (∀ w k, (State.powerUp cfg rom inp).byteAt w k = none) ∧ (∀ w, (State.powerUp cfg rom inp).validity w = none)
      ∧ (∀ i, (State.powerUp cfg rom inp).posAt i = none ∧ (State.powerUp cfg rom inp).turnAt i = none
        ∧ (State.powerUp cfg rom inp).rawpAt i = none ∧ (State.powerUp cfg rom inp).rawtAt i = none
        ∧ (State.powerUp cfg rom inp).validAt i = none ∧ (State.powerUp cfg rom inp).publishedAt i = none)
      ∧ (State.powerUp cfg rom inp).tx = none ∧ (State.powerUp cfg rom inp).rx = none
      ∧ (State.powerUp cfg rom inp).fault = FaultSet.none

/-- R802: RESET leads to the state of R801 from every state, held or faulted, with the same configuration and ROM. -/
def Obligations.ResetPinWorksInEveryState : Prop :=
  ∀ (s : State) (inp : Inputs), act (.reset inp) s = .next (State.powerUp s.cfg s.rom inp)

/-- The invariants below hold after reset, for every configuration and ROM, and so in `State.reset`. -/
def Obligations.ResetMeetsTheInvariants : Prop :=
  (∀ (cfg : Config) (rom : List Word) (inp : Inputs),
      Shaped (State.powerUp cfg rom inp) ∧ SingleSelection (State.powerUp cfg rom inp)
        ∧ ReadingsLegal (State.powerUp cfg rom inp) ∧ HoldsOwned (State.powerUp cfg rom inp)
        ∧ TurnUnused (State.powerUp cfg rom inp) ∧ Safe (State.powerUp cfg rom inp))
    ∧ Shaped State.reset ∧ SingleSelection State.reset ∧ ReadingsLegal State.reset ∧ HoldsOwned State.reset
    ∧ TurnUnused State.reset ∧ Safe State.reset ∧ configOk State.reset.cfg = true

/-! ### Invariants of every step -/

/-- R109: every register array keeps length N. -/
def Obligations.StepKeepsArrayLengths : Prop := ∀ s t : State, Shaped s → step s = .next t → Shaped t

/-- R403, R103: at most one channel is selected, in every state a step leads to. -/
def Obligations.StepKeepsSingleSelection : Prop :=
  ∀ s t : State, Shaped s → SingleSelection s → step s = .next t → SingleSelection t

/-- R109: each written entry of the arrays and of the publication is at most 0x3FFF or the sentinel 0x7FFF. -/
def Obligations.StepKeepsReadingsLegal : Prop :=
  ∀ s t : State, ReadingsLegal s → step s = .next t → ReadingsLegal t

/-- R111, R217, R731: an exchange, a running timer and a handshake always belong to the XFER, WAIT or PUB at `upc`; in particular
`SCLK` is 0 whenever no XFER is in progress and no select line moves during one. -/
def Obligations.StepKeepsHoldsOwned : Prop :=
  ∀ s t : State, HoldsOwned s → step s = .next t → HoldsOwned t

/-- R109: in SINGLE_TURN mode the turn word's state stays unwritten. -/
def Obligations.SingleTurnNeverWritesTurnState : Prop :=
  ∀ s t : State, HoldsOwned s → TurnUnused s → step s = .next t → TurnUnused t

/-- R113: where the delays that the ROM's WAITs name fit TIMER, no step overflows it; a TIMER as wide as R113 asks fits them in the
block's own ROM (with zero-setting, where no delay counts more ticks than `T_ZERO`: log 17), and in the reset state. -/
def Obligations.StepKeepsTimerInWidth : Prop :=
  (∀ s t : State, WaitsFit s → s.timer < 2 ^ s.cfg.timerWidth → step s = .next t →
      WaitsFit t ∧ t.timer < 2 ^ t.cfg.timerWidth)
    ∧ (∀ (cfg : Config) (inp : Inputs), cfg.neededTicks < 2 ^ cfg.timerWidth →
        (cfg.zeroSetChannels ≠ [] → ∀ d, waitTicks cfg d ≤ waitTicks cfg .zero) →
          WaitsFit (poweredUp cfg inp) ∧ (poweredUp cfg inp).timer < 2 ^ cfg.timerWidth)
    ∧ WaitsFit State.reset ∧ State.reset.timer < 2 ^ State.reset.cfg.timerWidth

/-- R102, R220: no step writes the configuration or the ROM. -/
def Obligations.StepNeverWritesParameters : Prop :=
  ∀ s t : State, step s = .next t → t.cfg = s.cfg ∧ t.rom = s.rom

/-- R115, R105: no micro-op takes an element out of FAULT, whatever it holds, or leaves Cycling, and none adds more than one element;
so does no step, after which FAULT holds at most one. -/
def Obligations.FaultsAndCyclingPersist : Prop :=
  (∀ (i : Instr) (s t : State), exec i s = .next t →
      (∀ c, s.fault.has c = true → t.fault.has c = true)
        ∧ (∀ c d, t.fault.has c = true → t.fault.has d = true → s.fault.has c = false → s.fault.has d = false → c = d)
        ∧ (s.phase = .cycling → t.phase = .cycling))
    ∧ ∀ s t : State, step s = .next t →
      (∀ c d, t.fault.has c = true → t.fault.has d = true → c = d) ∧ (s.phase = .cycling → t.phase = .cycling)

/-- R218, R114: a step leaves the published array as it was, or replaces the whole of it by the channel array. -/
def Obligations.PublicationIsAllOrNothing : Prop :=
  ∀ s t : State, step s = .next t →
    t.pubBuf = s.pubBuf
      ∨ (s.pubReq = false ∧ t.pubReq = true ∧ ∀ i < s.cfg.n, s.posAt i ≠ none ∧ t.publishedAt i = s.posAt i)

/-- R731, U13: a relay that never acknowledges holds the block at PUB for ever, with `PUB_REQ = 1`. -/
def Obligations.UnacknowledgedPublicationHolds : Prop :=
  ∀ (s : State) (inputs : List Inputs), fetch s = .run .pub → s.pubReq = true → s.pubAck = false →
    (∀ inp ∈ inputs, inp.pubAck = false) →
      ∃ t, runWith inputs s = .next t ∧ OnlyWrites [.miso, .mosi, .extraTicks] s t

/-! ### Runs of the block's own ROM, from power-up -/

/-- R712: no run of the ROM of a well-formed configuration raises a model fault, and none stops. -/
def Obligations.RomRunsNeverFault : Prop :=
  ∀ (cfg : Config) (inp : Inputs) (inputs : List Inputs), configOk cfg = true →
    ∃ t, runWith inputs (poweredUp cfg inp) = .next t ∧ Safe t

/-- R696, R603, R604, R697: whenever the ROM reaches a PUB, every entry of the channel array is the normalized form of the raw word
received from its channel in the cycle that ends there (the 16 bits, or 16 of 32, sampled in its last selection of that cycle, R476),
under that word's own parity; the indicator shows that parity (under LED_POLICY); and once the publication is out, it is the channel
array. The events are those of the model's pin trace (log 20). -/
def Obligations.PublicationIsParityCheckedReadings : Prop :=
  ∀ (cfg : Config) (inp : Inputs) (inputs : List Inputs) (t : State), configOk cfg = true →
    runWith inputs (poweredUp cfg inp) = .next t → fetch t = .run .pub →
      (∃ cycle, ThisCycle t (pinTrace inputs (poweredUp cfg inp)) cycle
        ∧ ∀ i < cfg.n, ∃ x body, t.rawpAt i = some x ∧ LastSelection i cycle body
          ∧ t.posAt i = some (normalize x (parityValid x)) ∧ t.validAt i = some (t.lit i)
          ∧ ((cfg.mode = .singleTurn ∨ cfg.ledPolicy = .positionOnly) → t.lit i = parityValid x)
          ∧ (cfg.mode = .singleTurn → samples body = wordBits x)
          ∧ (cfg.mode = .multiTurn → ∃ y, t.rawtAt i = some y ∧ samples body = wordBits x ++ wordBits y
            ∧ t.turnAt i = some (normalize y (parityValid y))
            ∧ (cfg.ledPolicy = .both → t.lit i = (parityValid x && parityValid y))))
      ∧ ((t.pubReq = true ∨ t.pubRelease = true) → ∀ i < cfg.n, t.publishedAt i = t.posAt i)

/-- R695, R216, R811: along every run the selections are those of the zero-set list, then cycles, each of channels 0..N-1 in order
and one publication, whatever the encoders answer. -/
def Obligations.CyclesSelectChannelsInOrder : Prop :=
  ∀ (cfg : Config) (inp : Inputs) (inputs : List Inputs), configOk cfg = true →
    ∃ k, cycleEvents (pinTrace inputs (poweredUp cfg inp))
      <+: cfg.zeroSetChannels.map PinEvent.csOn ++ (List.replicate k (oneCycle cfg.n)).flatten

/-- R402: the first rising edge of SCLK after a select comes at least T_SETTLE after it. -/
def Obligations.SelectSetupTime : Prop :=
  ∀ (cfg : Config) (inp : Inputs) (inputs : List Inputs), configOk cfg = true → 0 < cfg.fTick →
    ∀ before t1 i mid t2 after,
      timedTrace 0 inputs (poweredUp cfg inp) = before ++ (t1, .csOn i) :: (mid ++ (t2, .sclkRise) :: after) →
      Without .sclkRise mid → cfg.tSettle ≤ t2 - t1

/-- R412: a deselect comes at least T_HOLD after the last falling edge of SCLK. -/
def Obligations.SelectHoldTime : Prop :=
  ∀ (cfg : Config) (inp : Inputs) (inputs : List Inputs), configOk cfg = true → 0 < cfg.fTick →
    ∀ before t1 mid i t2 after,
      timedTrace 0 inputs (poweredUp cfg inp) = before ++ (t1, .sclkFall) :: (mid ++ (t2, .csOff i) :: after) →
      cfg.tHold ≤ t2 - t1

/-- R413: a select that follows a deselect comes at least T_CS_IDLE after it. -/
def Obligations.DeselectTime : Prop :=
  ∀ (cfg : Config) (inp : Inputs) (inputs : List Inputs), configOk cfg = true → 0 < cfg.fTick →
    ∀ before t1 i mid t2 j after,
      timedTrace 0 inputs (poweredUp cfg inp) = before ++ (t1, .csOff i) :: (mid ++ (t2, .csOn j) :: after) →
      cfg.tCsIdle ≤ t2 - t1

/-- R471 to R473, R475, R822: in every run each selection sends the command bytes of its transaction, most significant bit first: READ
and ZERO_SET for a zero-set, READ twice in single-turn mode, READ, READ_TURN, READ, READ in multi-turn mode. Between the last falling
edge of a byte and the first rising edge of the next byte of the same selection there is at least T_SETTLE, and at least T_TURN after
the second byte, which in multi-turn mode is the READ_TURN byte. -/
def Obligations.InterByteTime : Prop :=
  ∀ (cfg : Config) (inp : Inputs) (inputs : List Inputs), configOk cfg = true →
    (∀ before i body after,
      pinTrace inputs (poweredUp cfg inp) = before ++ .csOn i :: (body ++ .csOff i :: after) → .csOff i ∉ body →
        drivenBits body =
          (if countSelections before < cfg.zeroSetChannels.length then [cfg.cmdRead, cfg.cmdZeroSet]
            else if cfg.mode = .singleTurn then [cfg.cmdRead, cfg.cmdRead]
            else [cfg.cmdRead, cfg.cmdReadTurn, cfg.cmdRead, cfg.cmdRead]).flatMap byteBits)
      ∧ (0 < cfg.fTick → ∀ before t0 i first t1 mid t2 after,
        timedTrace 0 inputs (poweredUp cfg inp)
            = before ++ (t0, .csOn i) :: (first ++ (t1, .sclkFall) :: (mid ++ (t2, .sclkRise) :: after)) →
        (∀ j, Without (.csOn j) (first ++ mid)) → Without .sclkRise mid →
        (countEvents .sclkFall first + 1) % 8 = 0 →
          (if countEvents .sclkFall first + 1 = 16 then cfg.tTurn else cfg.tSettle) ≤ t2 - t1)

/-- R822: after the step that completes a PUB, the next cycle's first select comes at least T_CYCLE later. -/
def Obligations.CycleDelayTime : Prop :=
  ∀ (cfg : Config) (inp now : Inputs) (done rest : List Inputs) (s t : State), configOk cfg = true → 0 < cfg.fTick →
    runWith done (poweredUp cfg inp) = .next s → fetch s = .run .pub → stepWith now s = .next t → MovesOn s t →
      ∀ before t2 j after, timedTrace 0 rest t = before ++ (t2, .csOn j) :: after → cfg.tCycle ≤ t2

/-- R475, R693: after each deselect of the zero-set preamble, the next select comes at least T_CS_IDLE + T_ZERO later. -/
def Obligations.ZeroSetCommitTime : Prop :=
  ∀ (cfg : Config) (inp : Inputs) (inputs : List Inputs), configOk cfg = true → 0 < cfg.fTick →
    ∀ before t1 i mid t2 j after,
      timedTrace 0 inputs (poweredUp cfg inp) = before ++ (t1, .csOff i) :: (mid ++ (t2, .csOn j) :: after) →
      cfg.zeroSetChannels.length > ((before.filter fun x => match x.2 with | .csOff _ => true | _ => false).length) →
        cfg.tCsIdle + cfg.tZero ≤ t2 - t1

/-- R452, R453, R456: in every run from every state, SCLK never runs faster than F_ACQ: at least half a bit time passes between a
rising edge and the next falling edge, between a falling edge and the next rising edge, and between driving MOSI and the rising edge;
and an XFER that passes its checks, run to its end, gives eight rising and eight falling edges, driving the bits of its command byte,
and takes at least eight bit times from its first bit cell's start to its last falling edge.Its sixteen steps (log 5) and the
stamps (log 20) are the model's. -/
def Obligations.ClockNeverFasterThanRate : Prop :=
  ∀ (s : State) (inputs : List Inputs) (now : ℚ), 0 < s.cfg.fAcq →
    (0 ≤ s.cfg.fTick → ∀ before t1 e1 mid t2 e2 after,
      timedTrace now inputs s = before ++ (t1, e1) :: (mid ++ (t2, e2) :: after) →
      ((e1 = .sclkRise ∧ e2 = .sclkFall) ∨ (e1 = .sclkFall ∧ e2 = .sclkRise) ∨ ((∃ b, e1 = .mosi b) ∧ e2 = .sclkRise)) →
        1000000 / s.cfg.fAcq / 2 ≤ t2 - t1)
      ∧ ∀ c discard w k, fetch s = .run (.xfer c discard w k) → s.exchanging = false → s.ch.toNat < s.cfg.n →
        s.selected s.ch.toNat = true → (discard = true ∨ w = .position ∨ s.cfg.mode = .multiTurn) → inputs.length = 16 →
          ∃ b mid t2, timedTrace now inputs s = (now, .mosi b) :: (mid ++ [(t2, .sclkFall)])
            ∧ countEvents .sclkRise mid = 8 ∧ countEvents .sclkFall mid = 7
            ∧ b :: drivenBits (mid.map Prod.snd) = byteBits (commandByte s.cfg c)
            ∧ 8 * (1000000 / s.cfg.fAcq) ≤ t2 - now
end

