-- ==== Sys2Proof/Laws/State.lean ====
section
/-!
SUPPORT. What each named update of the state does to each field, and to each accessor that reads only fields it leaves alone: one
lemma each, so that no proof unfolds a record update.
-/

namespace Sys2Proof.Machine

open Sys2Proof

/-! ### `State.raise` -/

@[simp] theorem State.raise_cfg (s : State) (c : FaultCode) : (s.raise c).cfg = s.cfg := rfl
@[simp] theorem State.raise_rom (s : State) (c : FaultCode) : (s.raise c).rom = s.rom := rfl
@[simp] theorem State.raise_upc (s : State) (c : FaultCode) : (s.raise c).upc = s.upc := rfl
@[simp] theorem State.raise_upcCarry (s : State) (c : FaultCode) : (s.raise c).upcCarry = s.upcCarry := rfl
@[simp] theorem State.raise_phase (s : State) (c : FaultCode) : (s.raise c).phase = s.phase := rfl
@[simp] theorem State.raise_ch (s : State) (c : FaultCode) : (s.raise c).ch = s.ch := rfl
@[simp] theorem State.raise_cs (s : State) (c : FaultCode) : (s.raise c).cs = s.cs := rfl
@[simp] theorem State.raise_led (s : State) (c : FaultCode) : (s.raise c).led = s.led := rfl
@[simp] theorem State.raise_wbPosition (s : State) (c : FaultCode) : (s.raise c).wbPosition = s.wbPosition := rfl
@[simp] theorem State.raise_wbTurn (s : State) (c : FaultCode) : (s.raise c).wbTurn = s.wbTurn := rfl
@[simp] theorem State.raise_vPosition (s : State) (c : FaultCode) : (s.raise c).vPosition = s.vPosition := rfl
@[simp] theorem State.raise_vTurn (s : State) (c : FaultCode) : (s.raise c).vTurn = s.vTurn := rfl
@[simp] theorem State.raise_pos (s : State) (c : FaultCode) : (s.raise c).pos = s.pos := rfl
@[simp] theorem State.raise_turn (s : State) (c : FaultCode) : (s.raise c).turn = s.turn := rfl
@[simp] theorem State.raise_rawp (s : State) (c : FaultCode) : (s.raise c).rawp = s.rawp := rfl
@[simp] theorem State.raise_rawt (s : State) (c : FaultCode) : (s.raise c).rawt = s.rawt := rfl
@[simp] theorem State.raise_valid (s : State) (c : FaultCode) : (s.raise c).valid = s.valid := rfl
@[simp] theorem State.raise_sclk (s : State) (c : FaultCode) : (s.raise c).sclk = s.sclk := rfl
@[simp] theorem State.raise_mosi (s : State) (c : FaultCode) : (s.raise c).mosi = s.mosi := rfl
@[simp] theorem State.raise_miso (s : State) (c : FaultCode) : (s.raise c).miso = s.miso := rfl
@[simp] theorem State.raise_tx (s : State) (c : FaultCode) : (s.raise c).tx = s.tx := rfl
@[simp] theorem State.raise_rx (s : State) (c : FaultCode) : (s.raise c).rx = s.rx := rfl
@[simp] theorem State.raise_bitcnt (s : State) (c : FaultCode) : (s.raise c).bitcnt = s.bitcnt := rfl
@[simp] theorem State.raise_timer (s : State) (c : FaultCode) : (s.raise c).timer = s.timer := rfl
@[simp] theorem State.raise_pubReq (s : State) (c : FaultCode) : (s.raise c).pubReq = s.pubReq := rfl
@[simp] theorem State.raise_pubRelease (s : State) (c : FaultCode) : (s.raise c).pubRelease = s.pubRelease := rfl
@[simp] theorem State.raise_pubBuf (s : State) (c : FaultCode) : (s.raise c).pubBuf = s.pubBuf := rfl
@[simp] theorem State.raise_pubAck (s : State) (c : FaultCode) : (s.raise c).pubAck = s.pubAck := rfl
@[simp] theorem State.raise_fault (s : State) (c : FaultCode) : (s.raise c).fault = s.fault.insert c := rfl
@[simp] theorem State.raise_extraTicks (s : State) (c : FaultCode) : (s.raise c).extraTicks = s.extraTicks := rfl
@[simp] theorem State.raise_draws (s : State) (c : FaultCode) : (s.raise c).draws = s.draws := rfl
@[simp] theorem State.raise_channel (s : State) (c : FaultCode) : (s.raise c).channel = s.channel := rfl
@[simp] theorem State.raise_channelOk (s : State) (c : FaultCode) : (s.raise c).channelOk = s.channelOk := rfl
@[simp] theorem State.raise_anySelected (s : State) (c : FaultCode) : (s.raise c).anySelected = s.anySelected := rfl
@[simp] theorem State.raise_channelArray (s : State) (c : FaultCode) : (s.raise c).channelArray = s.channelArray := rfl
@[simp] theorem State.raise_exchanging (s : State) (c : FaultCode) : (s.raise c).exchanging = s.exchanging := rfl
@[simp] theorem State.raise_indicatorValue (s : State) (c : FaultCode) : (s.raise c).indicatorValue = s.indicatorValue := rfl
@[simp] theorem State.raise_selected (s : State) (c : FaultCode) (i : Nat) : (s.raise c).selected i = s.selected i := rfl
@[simp] theorem State.raise_lit (s : State) (c : FaultCode) (i : Nat) : (s.raise c).lit i = s.lit i := rfl
@[simp] theorem State.raise_posAt (s : State) (c : FaultCode) (i : Nat) : (s.raise c).posAt i = s.posAt i := rfl
@[simp] theorem State.raise_turnAt (s : State) (c : FaultCode) (i : Nat) : (s.raise c).turnAt i = s.turnAt i := rfl
@[simp] theorem State.raise_rawpAt (s : State) (c : FaultCode) (i : Nat) : (s.raise c).rawpAt i = s.rawpAt i := rfl
@[simp] theorem State.raise_rawtAt (s : State) (c : FaultCode) (i : Nat) : (s.raise c).rawtAt i = s.rawtAt i := rfl
@[simp] theorem State.raise_validAt (s : State) (c : FaultCode) (i : Nat) : (s.raise c).validAt i = s.validAt i := rfl
@[simp] theorem State.raise_publishedAt (s : State) (c : FaultCode) (i : Nat) : (s.raise c).publishedAt i = s.publishedAt i := rfl
@[simp] theorem State.raise_validity (s : State) (c : FaultCode) (w : WordSel) : (s.raise c).validity w = s.validity w := rfl
@[simp] theorem State.raise_word (s : State) (c : FaultCode) (w : WordSel) : (s.raise c).word w = s.word w := rfl
@[simp] theorem State.raise_byteAt (s : State) (c : FaultCode) (w : WordSel) (k : ByteSel) : (s.raise c).byteAt w k = s.byteAt w k := rfl

/-! ### `State.advance` -/

@[simp] theorem State.advance_cfg (s : State) : (s.advance).cfg = s.cfg := rfl
@[simp] theorem State.advance_rom (s : State) : (s.advance).rom = s.rom := rfl
@[simp] theorem State.advance_upc (s : State) : (s.advance).upc = s.upc + 1 := rfl
@[simp] theorem State.advance_upcCarry (s : State) : (s.advance).upcCarry = (s.upc == 0xFF) := rfl
@[simp] theorem State.advance_phase (s : State) : (s.advance).phase = s.phase := rfl
@[simp] theorem State.advance_ch (s : State) : (s.advance).ch = s.ch := rfl
@[simp] theorem State.advance_cs (s : State) : (s.advance).cs = s.cs := rfl
@[simp] theorem State.advance_led (s : State) : (s.advance).led = s.led := rfl
@[simp] theorem State.advance_wbPosition (s : State) : (s.advance).wbPosition = s.wbPosition := rfl
@[simp] theorem State.advance_wbTurn (s : State) : (s.advance).wbTurn = s.wbTurn := rfl
@[simp] theorem State.advance_vPosition (s : State) : (s.advance).vPosition = s.vPosition := rfl
@[simp] theorem State.advance_vTurn (s : State) : (s.advance).vTurn = s.vTurn := rfl
@[simp] theorem State.advance_pos (s : State) : (s.advance).pos = s.pos := rfl
@[simp] theorem State.advance_turn (s : State) : (s.advance).turn = s.turn := rfl
@[simp] theorem State.advance_rawp (s : State) : (s.advance).rawp = s.rawp := rfl
@[simp] theorem State.advance_rawt (s : State) : (s.advance).rawt = s.rawt := rfl
@[simp] theorem State.advance_valid (s : State) : (s.advance).valid = s.valid := rfl
@[simp] theorem State.advance_sclk (s : State) : (s.advance).sclk = s.sclk := rfl
@[simp] theorem State.advance_mosi (s : State) : (s.advance).mosi = s.mosi := rfl
@[simp] theorem State.advance_miso (s : State) : (s.advance).miso = s.miso := rfl
@[simp] theorem State.advance_tx (s : State) : (s.advance).tx = s.tx := rfl
@[simp] theorem State.advance_rx (s : State) : (s.advance).rx = s.rx := rfl
@[simp] theorem State.advance_bitcnt (s : State) : (s.advance).bitcnt = s.bitcnt := rfl
@[simp] theorem State.advance_timer (s : State) : (s.advance).timer = s.timer := rfl
@[simp] theorem State.advance_pubReq (s : State) : (s.advance).pubReq = s.pubReq := rfl
@[simp] theorem State.advance_pubRelease (s : State) : (s.advance).pubRelease = s.pubRelease := rfl
@[simp] theorem State.advance_pubBuf (s : State) : (s.advance).pubBuf = s.pubBuf := rfl
@[simp] theorem State.advance_pubAck (s : State) : (s.advance).pubAck = s.pubAck := rfl
@[simp] theorem State.advance_fault (s : State) : (s.advance).fault = s.fault := rfl
@[simp] theorem State.advance_extraTicks (s : State) : (s.advance).extraTicks = s.extraTicks := rfl
@[simp] theorem State.advance_draws (s : State) : (s.advance).draws = s.draws := rfl
@[simp] theorem State.advance_channel (s : State) : (s.advance).channel = s.channel := rfl
@[simp] theorem State.advance_channelOk (s : State) : (s.advance).channelOk = s.channelOk := rfl
@[simp] theorem State.advance_anySelected (s : State) : (s.advance).anySelected = s.anySelected := rfl
@[simp] theorem State.advance_channelArray (s : State) : (s.advance).channelArray = s.channelArray := rfl
@[simp] theorem State.advance_exchanging (s : State) : (s.advance).exchanging = s.exchanging := rfl
@[simp] theorem State.advance_indicatorValue (s : State) : (s.advance).indicatorValue = s.indicatorValue := rfl
@[simp] theorem State.advance_selected (s : State) (i : Nat) : (s.advance).selected i = s.selected i := rfl
@[simp] theorem State.advance_lit (s : State) (i : Nat) : (s.advance).lit i = s.lit i := rfl
@[simp] theorem State.advance_posAt (s : State) (i : Nat) : (s.advance).posAt i = s.posAt i := rfl
@[simp] theorem State.advance_turnAt (s : State) (i : Nat) : (s.advance).turnAt i = s.turnAt i := rfl
@[simp] theorem State.advance_rawpAt (s : State) (i : Nat) : (s.advance).rawpAt i = s.rawpAt i := rfl
@[simp] theorem State.advance_rawtAt (s : State) (i : Nat) : (s.advance).rawtAt i = s.rawtAt i := rfl
@[simp] theorem State.advance_validAt (s : State) (i : Nat) : (s.advance).validAt i = s.validAt i := rfl
@[simp] theorem State.advance_publishedAt (s : State) (i : Nat) : (s.advance).publishedAt i = s.publishedAt i := rfl
@[simp] theorem State.advance_validity (s : State) (w : WordSel) : (s.advance).validity w = s.validity w := rfl
@[simp] theorem State.advance_word (s : State) (w : WordSel) : (s.advance).word w = s.word w := rfl
@[simp] theorem State.advance_byteAt (s : State) (w : WordSel) (k : ByteSel) : (s.advance).byteAt w k = s.byteAt w k := rfl

/-! ### `State.jump` -/

@[simp] theorem State.jump_cfg (s : State) (a : Addr) : (s.jump a).cfg = s.cfg := rfl
@[simp] theorem State.jump_rom (s : State) (a : Addr) : (s.jump a).rom = s.rom := rfl
@[simp] theorem State.jump_upc (s : State) (a : Addr) : (s.jump a).upc = a := rfl
@[simp] theorem State.jump_upcCarry (s : State) (a : Addr) : (s.jump a).upcCarry = false := rfl
@[simp] theorem State.jump_phase (s : State) (a : Addr) : (s.jump a).phase = s.phase := rfl
@[simp] theorem State.jump_ch (s : State) (a : Addr) : (s.jump a).ch = s.ch := rfl
@[simp] theorem State.jump_cs (s : State) (a : Addr) : (s.jump a).cs = s.cs := rfl
@[simp] theorem State.jump_led (s : State) (a : Addr) : (s.jump a).led = s.led := rfl
@[simp] theorem State.jump_wbPosition (s : State) (a : Addr) : (s.jump a).wbPosition = s.wbPosition := rfl
@[simp] theorem State.jump_wbTurn (s : State) (a : Addr) : (s.jump a).wbTurn = s.wbTurn := rfl
@[simp] theorem State.jump_vPosition (s : State) (a : Addr) : (s.jump a).vPosition = s.vPosition := rfl
@[simp] theorem State.jump_vTurn (s : State) (a : Addr) : (s.jump a).vTurn = s.vTurn := rfl
@[simp] theorem State.jump_pos (s : State) (a : Addr) : (s.jump a).pos = s.pos := rfl
@[simp] theorem State.jump_turn (s : State) (a : Addr) : (s.jump a).turn = s.turn := rfl
@[simp] theorem State.jump_rawp (s : State) (a : Addr) : (s.jump a).rawp = s.rawp := rfl
@[simp] theorem State.jump_rawt (s : State) (a : Addr) : (s.jump a).rawt = s.rawt := rfl
@[simp] theorem State.jump_valid (s : State) (a : Addr) : (s.jump a).valid = s.valid := rfl
@[simp] theorem State.jump_sclk (s : State) (a : Addr) : (s.jump a).sclk = s.sclk := rfl
@[simp] theorem State.jump_mosi (s : State) (a : Addr) : (s.jump a).mosi = s.mosi := rfl
@[simp] theorem State.jump_miso (s : State) (a : Addr) : (s.jump a).miso = s.miso := rfl
@[simp] theorem State.jump_tx (s : State) (a : Addr) : (s.jump a).tx = s.tx := rfl
@[simp] theorem State.jump_rx (s : State) (a : Addr) : (s.jump a).rx = s.rx := rfl
@[simp] theorem State.jump_bitcnt (s : State) (a : Addr) : (s.jump a).bitcnt = s.bitcnt := rfl
@[simp] theorem State.jump_timer (s : State) (a : Addr) : (s.jump a).timer = s.timer := rfl
@[simp] theorem State.jump_pubReq (s : State) (a : Addr) : (s.jump a).pubReq = s.pubReq := rfl
@[simp] theorem State.jump_pubRelease (s : State) (a : Addr) : (s.jump a).pubRelease = s.pubRelease := rfl
@[simp] theorem State.jump_pubBuf (s : State) (a : Addr) : (s.jump a).pubBuf = s.pubBuf := rfl
@[simp] theorem State.jump_pubAck (s : State) (a : Addr) : (s.jump a).pubAck = s.pubAck := rfl
@[simp] theorem State.jump_fault (s : State) (a : Addr) : (s.jump a).fault = s.fault := rfl
@[simp] theorem State.jump_extraTicks (s : State) (a : Addr) : (s.jump a).extraTicks = s.extraTicks := rfl
@[simp] theorem State.jump_draws (s : State) (a : Addr) : (s.jump a).draws = s.draws := rfl
@[simp] theorem State.jump_channel (s : State) (a : Addr) : (s.jump a).channel = s.channel := rfl
@[simp] theorem State.jump_channelOk (s : State) (a : Addr) : (s.jump a).channelOk = s.channelOk := rfl
@[simp] theorem State.jump_anySelected (s : State) (a : Addr) : (s.jump a).anySelected = s.anySelected := rfl
@[simp] theorem State.jump_channelArray (s : State) (a : Addr) : (s.jump a).channelArray = s.channelArray := rfl
@[simp] theorem State.jump_exchanging (s : State) (a : Addr) : (s.jump a).exchanging = s.exchanging := rfl
@[simp] theorem State.jump_indicatorValue (s : State) (a : Addr) : (s.jump a).indicatorValue = s.indicatorValue := rfl
@[simp] theorem State.jump_selected (s : State) (a : Addr) (i : Nat) : (s.jump a).selected i = s.selected i := rfl
@[simp] theorem State.jump_lit (s : State) (a : Addr) (i : Nat) : (s.jump a).lit i = s.lit i := rfl
@[simp] theorem State.jump_posAt (s : State) (a : Addr) (i : Nat) : (s.jump a).posAt i = s.posAt i := rfl
@[simp] theorem State.jump_turnAt (s : State) (a : Addr) (i : Nat) : (s.jump a).turnAt i = s.turnAt i := rfl
@[simp] theorem State.jump_rawpAt (s : State) (a : Addr) (i : Nat) : (s.jump a).rawpAt i = s.rawpAt i := rfl
@[simp] theorem State.jump_rawtAt (s : State) (a : Addr) (i : Nat) : (s.jump a).rawtAt i = s.rawtAt i := rfl
@[simp] theorem State.jump_validAt (s : State) (a : Addr) (i : Nat) : (s.jump a).validAt i = s.validAt i := rfl
@[simp] theorem State.jump_publishedAt (s : State) (a : Addr) (i : Nat) : (s.jump a).publishedAt i = s.publishedAt i := rfl
@[simp] theorem State.jump_validity (s : State) (a : Addr) (w : WordSel) : (s.jump a).validity w = s.validity w := rfl
@[simp] theorem State.jump_word (s : State) (a : Addr) (w : WordSel) : (s.jump a).word w = s.word w := rfl
@[simp] theorem State.jump_byteAt (s : State) (a : Addr) (w : WordSel) (k : ByteSel) : (s.jump a).byteAt w k = s.byteAt w k := rfl

/-! ### `State.putCs` -/

@[simp] theorem State.putCs_cfg (s : State) (n : Nat) (b : Bool) : (s.putCs n b).cfg = s.cfg := rfl
@[simp] theorem State.putCs_rom (s : State) (n : Nat) (b : Bool) : (s.putCs n b).rom = s.rom := rfl
@[simp] theorem State.putCs_upc (s : State) (n : Nat) (b : Bool) : (s.putCs n b).upc = s.upc := rfl
@[simp] theorem State.putCs_upcCarry (s : State) (n : Nat) (b : Bool) : (s.putCs n b).upcCarry = s.upcCarry := rfl
@[simp] theorem State.putCs_phase (s : State) (n : Nat) (b : Bool) : (s.putCs n b).phase = s.phase := rfl
@[simp] theorem State.putCs_ch (s : State) (n : Nat) (b : Bool) : (s.putCs n b).ch = s.ch := rfl
@[simp] theorem State.putCs_cs (s : State) (n : Nat) (b : Bool) : (s.putCs n b).cs = s.cs.set n b := rfl
@[simp] theorem State.putCs_led (s : State) (n : Nat) (b : Bool) : (s.putCs n b).led = s.led := rfl
@[simp] theorem State.putCs_wbPosition (s : State) (n : Nat) (b : Bool) : (s.putCs n b).wbPosition = s.wbPosition := rfl
@[simp] theorem State.putCs_wbTurn (s : State) (n : Nat) (b : Bool) : (s.putCs n b).wbTurn = s.wbTurn := rfl
@[simp] theorem State.putCs_vPosition (s : State) (n : Nat) (b : Bool) : (s.putCs n b).vPosition = s.vPosition := rfl
@[simp] theorem State.putCs_vTurn (s : State) (n : Nat) (b : Bool) : (s.putCs n b).vTurn = s.vTurn := rfl
@[simp] theorem State.putCs_pos (s : State) (n : Nat) (b : Bool) : (s.putCs n b).pos = s.pos := rfl
@[simp] theorem State.putCs_turn (s : State) (n : Nat) (b : Bool) : (s.putCs n b).turn = s.turn := rfl
@[simp] theorem State.putCs_rawp (s : State) (n : Nat) (b : Bool) : (s.putCs n b).rawp = s.rawp := rfl
@[simp] theorem State.putCs_rawt (s : State) (n : Nat) (b : Bool) : (s.putCs n b).rawt = s.rawt := rfl
@[simp] theorem State.putCs_valid (s : State) (n : Nat) (b : Bool) : (s.putCs n b).valid = s.valid := rfl
@[simp] theorem State.putCs_sclk (s : State) (n : Nat) (b : Bool) : (s.putCs n b).sclk = s.sclk := rfl
@[simp] theorem State.putCs_mosi (s : State) (n : Nat) (b : Bool) : (s.putCs n b).mosi = s.mosi := rfl
@[simp] theorem State.putCs_miso (s : State) (n : Nat) (b : Bool) : (s.putCs n b).miso = s.miso := rfl
@[simp] theorem State.putCs_tx (s : State) (n : Nat) (b : Bool) : (s.putCs n b).tx = s.tx := rfl
@[simp] theorem State.putCs_rx (s : State) (n : Nat) (b : Bool) : (s.putCs n b).rx = s.rx := rfl
@[simp] theorem State.putCs_bitcnt (s : State) (n : Nat) (b : Bool) : (s.putCs n b).bitcnt = s.bitcnt := rfl
@[simp] theorem State.putCs_timer (s : State) (n : Nat) (b : Bool) : (s.putCs n b).timer = s.timer := rfl
@[simp] theorem State.putCs_pubReq (s : State) (n : Nat) (b : Bool) : (s.putCs n b).pubReq = s.pubReq := rfl
@[simp] theorem State.putCs_pubRelease (s : State) (n : Nat) (b : Bool) : (s.putCs n b).pubRelease = s.pubRelease := rfl
@[simp] theorem State.putCs_pubBuf (s : State) (n : Nat) (b : Bool) : (s.putCs n b).pubBuf = s.pubBuf := rfl
@[simp] theorem State.putCs_pubAck (s : State) (n : Nat) (b : Bool) : (s.putCs n b).pubAck = s.pubAck := rfl
@[simp] theorem State.putCs_fault (s : State) (n : Nat) (b : Bool) : (s.putCs n b).fault = s.fault := rfl
@[simp] theorem State.putCs_extraTicks (s : State) (n : Nat) (b : Bool) : (s.putCs n b).extraTicks = s.extraTicks := rfl
@[simp] theorem State.putCs_draws (s : State) (n : Nat) (b : Bool) : (s.putCs n b).draws = s.draws := rfl
@[simp] theorem State.putCs_channel (s : State) (n : Nat) (b : Bool) : (s.putCs n b).channel = s.channel := rfl
@[simp] theorem State.putCs_channelOk (s : State) (n : Nat) (b : Bool) : (s.putCs n b).channelOk = s.channelOk := rfl
@[simp] theorem State.putCs_channelArray (s : State) (n : Nat) (b : Bool) : (s.putCs n b).channelArray = s.channelArray := rfl
@[simp] theorem State.putCs_exchanging (s : State) (n : Nat) (b : Bool) : (s.putCs n b).exchanging = s.exchanging := rfl
@[simp] theorem State.putCs_indicatorValue (s : State) (n : Nat) (b : Bool) : (s.putCs n b).indicatorValue = s.indicatorValue := rfl
@[simp] theorem State.putCs_lit (s : State) (n : Nat) (b : Bool) (i : Nat) : (s.putCs n b).lit i = s.lit i := rfl
@[simp] theorem State.putCs_posAt (s : State) (n : Nat) (b : Bool) (i : Nat) : (s.putCs n b).posAt i = s.posAt i := rfl
@[simp] theorem State.putCs_turnAt (s : State) (n : Nat) (b : Bool) (i : Nat) : (s.putCs n b).turnAt i = s.turnAt i := rfl
@[simp] theorem State.putCs_rawpAt (s : State) (n : Nat) (b : Bool) (i : Nat) : (s.putCs n b).rawpAt i = s.rawpAt i := rfl
@[simp] theorem State.putCs_rawtAt (s : State) (n : Nat) (b : Bool) (i : Nat) : (s.putCs n b).rawtAt i = s.rawtAt i := rfl
@[simp] theorem State.putCs_validAt (s : State) (n : Nat) (b : Bool) (i : Nat) : (s.putCs n b).validAt i = s.validAt i := rfl
@[simp] theorem State.putCs_publishedAt (s : State) (n : Nat) (b : Bool) (i : Nat) : (s.putCs n b).publishedAt i = s.publishedAt i := rfl
@[simp] theorem State.putCs_validity (s : State) (n : Nat) (b : Bool) (w : WordSel) : (s.putCs n b).validity w = s.validity w := rfl
@[simp] theorem State.putCs_word (s : State) (n : Nat) (b : Bool) (w : WordSel) : (s.putCs n b).word w = s.word w := rfl
@[simp] theorem State.putCs_byteAt (s : State) (n : Nat) (b : Bool) (w : WordSel) (k : ByteSel) : (s.putCs n b).byteAt w k = s.byteAt w k := rfl

/-! ### `State.putIndicator` -/

@[simp] theorem State.putIndicator_cfg (s : State) (n : Nat) (b : Bool) : (s.putIndicator n b).cfg = s.cfg := rfl
@[simp] theorem State.putIndicator_rom (s : State) (n : Nat) (b : Bool) : (s.putIndicator n b).rom = s.rom := rfl
@[simp] theorem State.putIndicator_upc (s : State) (n : Nat) (b : Bool) : (s.putIndicator n b).upc = s.upc := rfl
@[simp] theorem State.putIndicator_upcCarry (s : State) (n : Nat) (b : Bool) : (s.putIndicator n b).upcCarry = s.upcCarry := rfl
@[simp] theorem State.putIndicator_phase (s : State) (n : Nat) (b : Bool) : (s.putIndicator n b).phase = s.phase := rfl
@[simp] theorem State.putIndicator_ch (s : State) (n : Nat) (b : Bool) : (s.putIndicator n b).ch = s.ch := rfl
@[simp] theorem State.putIndicator_cs (s : State) (n : Nat) (b : Bool) : (s.putIndicator n b).cs = s.cs := rfl
@[simp] theorem State.putIndicator_led (s : State) (n : Nat) (b : Bool) : (s.putIndicator n b).led = s.led.set n b := rfl
@[simp] theorem State.putIndicator_wbPosition (s : State) (n : Nat) (b : Bool) : (s.putIndicator n b).wbPosition = s.wbPosition := rfl
@[simp] theorem State.putIndicator_wbTurn (s : State) (n : Nat) (b : Bool) : (s.putIndicator n b).wbTurn = s.wbTurn := rfl
@[simp] theorem State.putIndicator_vPosition (s : State) (n : Nat) (b : Bool) : (s.putIndicator n b).vPosition = s.vPosition := rfl
@[simp] theorem State.putIndicator_vTurn (s : State) (n : Nat) (b : Bool) : (s.putIndicator n b).vTurn = s.vTurn := rfl
@[simp] theorem State.putIndicator_pos (s : State) (n : Nat) (b : Bool) : (s.putIndicator n b).pos = s.pos := rfl
@[simp] theorem State.putIndicator_turn (s : State) (n : Nat) (b : Bool) : (s.putIndicator n b).turn = s.turn := rfl
@[simp] theorem State.putIndicator_rawp (s : State) (n : Nat) (b : Bool) : (s.putIndicator n b).rawp = s.rawp := rfl
@[simp] theorem State.putIndicator_rawt (s : State) (n : Nat) (b : Bool) : (s.putIndicator n b).rawt = s.rawt := rfl
@[simp] theorem State.putIndicator_valid (s : State) (n : Nat) (b : Bool) : (s.putIndicator n b).valid = s.valid.set n (some b) := rfl
@[simp] theorem State.putIndicator_sclk (s : State) (n : Nat) (b : Bool) : (s.putIndicator n b).sclk = s.sclk := rfl
@[simp] theorem State.putIndicator_mosi (s : State) (n : Nat) (b : Bool) : (s.putIndicator n b).mosi = s.mosi := rfl
@[simp] theorem State.putIndicator_miso (s : State) (n : Nat) (b : Bool) : (s.putIndicator n b).miso = s.miso := rfl
@[simp] theorem State.putIndicator_tx (s : State) (n : Nat) (b : Bool) : (s.putIndicator n b).tx = s.tx := rfl
@[simp] theorem State.putIndicator_rx (s : State) (n : Nat) (b : Bool) : (s.putIndicator n b).rx = s.rx := rfl
@[simp] theorem State.putIndicator_bitcnt (s : State) (n : Nat) (b : Bool) : (s.putIndicator n b).bitcnt = s.bitcnt := rfl
@[simp] theorem State.putIndicator_timer (s : State) (n : Nat) (b : Bool) : (s.putIndicator n b).timer = s.timer := rfl
@[simp] theorem State.putIndicator_pubReq (s : State) (n : Nat) (b : Bool) : (s.putIndicator n b).pubReq = s.pubReq := rfl
@[simp] theorem State.putIndicator_pubRelease (s : State) (n : Nat) (b : Bool) : (s.putIndicator n b).pubRelease = s.pubRelease := rfl
@[simp] theorem State.putIndicator_pubBuf (s : State) (n : Nat) (b : Bool) : (s.putIndicator n b).pubBuf = s.pubBuf := rfl
@[simp] theorem State.putIndicator_pubAck (s : State) (n : Nat) (b : Bool) : (s.putIndicator n b).pubAck = s.pubAck := rfl
@[simp] theorem State.putIndicator_fault (s : State) (n : Nat) (b : Bool) : (s.putIndicator n b).fault = s.fault := rfl
@[simp] theorem State.putIndicator_extraTicks (s : State) (n : Nat) (b : Bool) : (s.putIndicator n b).extraTicks = s.extraTicks := rfl
@[simp] theorem State.putIndicator_draws (s : State) (n : Nat) (b : Bool) : (s.putIndicator n b).draws = s.draws := rfl
@[simp] theorem State.putIndicator_channel (s : State) (n : Nat) (b : Bool) : (s.putIndicator n b).channel = s.channel := rfl
@[simp] theorem State.putIndicator_channelOk (s : State) (n : Nat) (b : Bool) : (s.putIndicator n b).channelOk = s.channelOk := rfl
@[simp] theorem State.putIndicator_anySelected (s : State) (n : Nat) (b : Bool) : (s.putIndicator n b).anySelected = s.anySelected := rfl
@[simp] theorem State.putIndicator_channelArray (s : State) (n : Nat) (b : Bool) : (s.putIndicator n b).channelArray = s.channelArray := rfl
@[simp] theorem State.putIndicator_exchanging (s : State) (n : Nat) (b : Bool) : (s.putIndicator n b).exchanging = s.exchanging := rfl
@[simp] theorem State.putIndicator_indicatorValue (s : State) (n : Nat) (b : Bool) : (s.putIndicator n b).indicatorValue = s.indicatorValue := rfl
@[simp] theorem State.putIndicator_selected (s : State) (n : Nat) (b : Bool) (i : Nat) : (s.putIndicator n b).selected i = s.selected i := rfl
@[simp] theorem State.putIndicator_posAt (s : State) (n : Nat) (b : Bool) (i : Nat) : (s.putIndicator n b).posAt i = s.posAt i := rfl
@[simp] theorem State.putIndicator_turnAt (s : State) (n : Nat) (b : Bool) (i : Nat) : (s.putIndicator n b).turnAt i = s.turnAt i := rfl
@[simp] theorem State.putIndicator_rawpAt (s : State) (n : Nat) (b : Bool) (i : Nat) : (s.putIndicator n b).rawpAt i = s.rawpAt i := rfl
@[simp] theorem State.putIndicator_rawtAt (s : State) (n : Nat) (b : Bool) (i : Nat) : (s.putIndicator n b).rawtAt i = s.rawtAt i := rfl
@[simp] theorem State.putIndicator_publishedAt (s : State) (n : Nat) (b : Bool) (i : Nat) : (s.putIndicator n b).publishedAt i = s.publishedAt i := rfl
@[simp] theorem State.putIndicator_validity (s : State) (n : Nat) (b : Bool) (w : WordSel) : (s.putIndicator n b).validity w = s.validity w := rfl
@[simp] theorem State.putIndicator_word (s : State) (n : Nat) (b : Bool) (w : WordSel) : (s.putIndicator n b).word w = s.word w := rfl
@[simp] theorem State.putIndicator_byteAt (s : State) (n : Nat) (b : Bool) (w : WordSel) (k : ByteSel) : (s.putIndicator n b).byteAt w k = s.byteAt w k := rfl

/-! ### `State.putByte` -/

@[simp] theorem State.putByte_cfg (s : State) (v : WordSel) (l : ByteSel) (b : Byte) : (s.putByte v l b).cfg = s.cfg := by cases v <;> cases l <;> rfl
@[simp] theorem State.putByte_rom (s : State) (v : WordSel) (l : ByteSel) (b : Byte) : (s.putByte v l b).rom = s.rom := by cases v <;> cases l <;> rfl
@[simp] theorem State.putByte_upc (s : State) (v : WordSel) (l : ByteSel) (b : Byte) : (s.putByte v l b).upc = s.upc := by cases v <;> cases l <;> rfl
@[simp] theorem State.putByte_upcCarry (s : State) (v : WordSel) (l : ByteSel) (b : Byte) : (s.putByte v l b).upcCarry = s.upcCarry := by cases v <;> cases l <;> rfl
@[simp] theorem State.putByte_phase (s : State) (v : WordSel) (l : ByteSel) (b : Byte) : (s.putByte v l b).phase = s.phase := by cases v <;> cases l <;> rfl
@[simp] theorem State.putByte_ch (s : State) (v : WordSel) (l : ByteSel) (b : Byte) : (s.putByte v l b).ch = s.ch := by cases v <;> cases l <;> rfl
@[simp] theorem State.putByte_cs (s : State) (v : WordSel) (l : ByteSel) (b : Byte) : (s.putByte v l b).cs = s.cs := by cases v <;> cases l <;> rfl
@[simp] theorem State.putByte_led (s : State) (v : WordSel) (l : ByteSel) (b : Byte) : (s.putByte v l b).led = s.led := by cases v <;> cases l <;> rfl
@[simp] theorem State.putByte_vPosition (s : State) (v : WordSel) (l : ByteSel) (b : Byte) : (s.putByte v l b).vPosition = s.vPosition := by cases v <;> cases l <;> rfl
@[simp] theorem State.putByte_vTurn (s : State) (v : WordSel) (l : ByteSel) (b : Byte) : (s.putByte v l b).vTurn = s.vTurn := by cases v <;> cases l <;> rfl
@[simp] theorem State.putByte_pos (s : State) (v : WordSel) (l : ByteSel) (b : Byte) : (s.putByte v l b).pos = s.pos := by cases v <;> cases l <;> rfl
@[simp] theorem State.putByte_turn (s : State) (v : WordSel) (l : ByteSel) (b : Byte) : (s.putByte v l b).turn = s.turn := by cases v <;> cases l <;> rfl
@[simp] theorem State.putByte_rawp (s : State) (v : WordSel) (l : ByteSel) (b : Byte) : (s.putByte v l b).rawp = s.rawp := by cases v <;> cases l <;> rfl
@[simp] theorem State.putByte_rawt (s : State) (v : WordSel) (l : ByteSel) (b : Byte) : (s.putByte v l b).rawt = s.rawt := by cases v <;> cases l <;> rfl
@[simp] theorem State.putByte_valid (s : State) (v : WordSel) (l : ByteSel) (b : Byte) : (s.putByte v l b).valid = s.valid := by cases v <;> cases l <;> rfl
@[simp] theorem State.putByte_sclk (s : State) (v : WordSel) (l : ByteSel) (b : Byte) : (s.putByte v l b).sclk = s.sclk := by cases v <;> cases l <;> rfl
@[simp] theorem State.putByte_mosi (s : State) (v : WordSel) (l : ByteSel) (b : Byte) : (s.putByte v l b).mosi = s.mosi := by cases v <;> cases l <;> rfl
@[simp] theorem State.putByte_miso (s : State) (v : WordSel) (l : ByteSel) (b : Byte) : (s.putByte v l b).miso = s.miso := by cases v <;> cases l <;> rfl
@[simp] theorem State.putByte_tx (s : State) (v : WordSel) (l : ByteSel) (b : Byte) : (s.putByte v l b).tx = s.tx := by cases v <;> cases l <;> rfl
@[simp] theorem State.putByte_rx (s : State) (v : WordSel) (l : ByteSel) (b : Byte) : (s.putByte v l b).rx = s.rx := by cases v <;> cases l <;> rfl
@[simp] theorem State.putByte_bitcnt (s : State) (v : WordSel) (l : ByteSel) (b : Byte) : (s.putByte v l b).bitcnt = s.bitcnt := by cases v <;> cases l <;> rfl
@[simp] theorem State.putByte_timer (s : State) (v : WordSel) (l : ByteSel) (b : Byte) : (s.putByte v l b).timer = s.timer := by cases v <;> cases l <;> rfl
@[simp] theorem State.putByte_pubReq (s : State) (v : WordSel) (l : ByteSel) (b : Byte) : (s.putByte v l b).pubReq = s.pubReq := by cases v <;> cases l <;> rfl
@[simp] theorem State.putByte_pubRelease (s : State) (v : WordSel) (l : ByteSel) (b : Byte) : (s.putByte v l b).pubRelease = s.pubRelease := by cases v <;> cases l <;> rfl
@[simp] theorem State.putByte_pubBuf (s : State) (v : WordSel) (l : ByteSel) (b : Byte) : (s.putByte v l b).pubBuf = s.pubBuf := by cases v <;> cases l <;> rfl
@[simp] theorem State.putByte_pubAck (s : State) (v : WordSel) (l : ByteSel) (b : Byte) : (s.putByte v l b).pubAck = s.pubAck := by cases v <;> cases l <;> rfl
@[simp] theorem State.putByte_fault (s : State) (v : WordSel) (l : ByteSel) (b : Byte) : (s.putByte v l b).fault = s.fault := by cases v <;> cases l <;> rfl
@[simp] theorem State.putByte_extraTicks (s : State) (v : WordSel) (l : ByteSel) (b : Byte) : (s.putByte v l b).extraTicks = s.extraTicks := by cases v <;> cases l <;> rfl
@[simp] theorem State.putByte_draws (s : State) (v : WordSel) (l : ByteSel) (b : Byte) : (s.putByte v l b).draws = s.draws := by cases v <;> cases l <;> rfl
@[simp] theorem State.putByte_channel (s : State) (v : WordSel) (l : ByteSel) (b : Byte) : (s.putByte v l b).channel = s.channel := by cases v <;> cases l <;> rfl
@[simp] theorem State.putByte_channelOk (s : State) (v : WordSel) (l : ByteSel) (b : Byte) : (s.putByte v l b).channelOk = s.channelOk := by cases v <;> cases l <;> rfl
@[simp] theorem State.putByte_anySelected (s : State) (v : WordSel) (l : ByteSel) (b : Byte) : (s.putByte v l b).anySelected = s.anySelected := by cases v <;> cases l <;> rfl
@[simp] theorem State.putByte_channelArray (s : State) (v : WordSel) (l : ByteSel) (b : Byte) : (s.putByte v l b).channelArray = s.channelArray := by cases v <;> cases l <;> rfl
@[simp] theorem State.putByte_exchanging (s : State) (v : WordSel) (l : ByteSel) (b : Byte) : (s.putByte v l b).exchanging = s.exchanging := by cases v <;> cases l <;> rfl
@[simp] theorem State.putByte_indicatorValue (s : State) (v : WordSel) (l : ByteSel) (b : Byte) : (s.putByte v l b).indicatorValue = s.indicatorValue := by cases v <;> cases l <;> rfl
@[simp] theorem State.putByte_selected (s : State) (v : WordSel) (l : ByteSel) (b : Byte) (i : Nat) : (s.putByte v l b).selected i = s.selected i := by cases v <;> cases l <;> rfl
@[simp] theorem State.putByte_lit (s : State) (v : WordSel) (l : ByteSel) (b : Byte) (i : Nat) : (s.putByte v l b).lit i = s.lit i := by cases v <;> cases l <;> rfl
@[simp] theorem State.putByte_posAt (s : State) (v : WordSel) (l : ByteSel) (b : Byte) (i : Nat) : (s.putByte v l b).posAt i = s.posAt i := by cases v <;> cases l <;> rfl
@[simp] theorem State.putByte_turnAt (s : State) (v : WordSel) (l : ByteSel) (b : Byte) (i : Nat) : (s.putByte v l b).turnAt i = s.turnAt i := by cases v <;> cases l <;> rfl
@[simp] theorem State.putByte_rawpAt (s : State) (v : WordSel) (l : ByteSel) (b : Byte) (i : Nat) : (s.putByte v l b).rawpAt i = s.rawpAt i := by cases v <;> cases l <;> rfl
@[simp] theorem State.putByte_rawtAt (s : State) (v : WordSel) (l : ByteSel) (b : Byte) (i : Nat) : (s.putByte v l b).rawtAt i = s.rawtAt i := by cases v <;> cases l <;> rfl
@[simp] theorem State.putByte_validAt (s : State) (v : WordSel) (l : ByteSel) (b : Byte) (i : Nat) : (s.putByte v l b).validAt i = s.validAt i := by cases v <;> cases l <;> rfl
@[simp] theorem State.putByte_publishedAt (s : State) (v : WordSel) (l : ByteSel) (b : Byte) (i : Nat) : (s.putByte v l b).publishedAt i = s.publishedAt i := by cases v <;> cases l <;> rfl
@[simp] theorem State.putByte_validity (s : State) (v : WordSel) (l : ByteSel) (b : Byte) (w : WordSel) : (s.putByte v l b).validity w = s.validity w := by cases v <;> cases l <;> rfl

/-! ### `State.putValidity` -/

@[simp] theorem State.putValidity_cfg (s : State) (v : WordSel) (b : Bool) : (s.putValidity v b).cfg = s.cfg := by cases v <;> rfl
@[simp] theorem State.putValidity_rom (s : State) (v : WordSel) (b : Bool) : (s.putValidity v b).rom = s.rom := by cases v <;> rfl
@[simp] theorem State.putValidity_upc (s : State) (v : WordSel) (b : Bool) : (s.putValidity v b).upc = s.upc := by cases v <;> rfl
@[simp] theorem State.putValidity_upcCarry (s : State) (v : WordSel) (b : Bool) : (s.putValidity v b).upcCarry = s.upcCarry := by cases v <;> rfl
@[simp] theorem State.putValidity_phase (s : State) (v : WordSel) (b : Bool) : (s.putValidity v b).phase = s.phase := by cases v <;> rfl
@[simp] theorem State.putValidity_ch (s : State) (v : WordSel) (b : Bool) : (s.putValidity v b).ch = s.ch := by cases v <;> rfl
@[simp] theorem State.putValidity_cs (s : State) (v : WordSel) (b : Bool) : (s.putValidity v b).cs = s.cs := by cases v <;> rfl
@[simp] theorem State.putValidity_led (s : State) (v : WordSel) (b : Bool) : (s.putValidity v b).led = s.led := by cases v <;> rfl
@[simp] theorem State.putValidity_wbPosition (s : State) (v : WordSel) (b : Bool) : (s.putValidity v b).wbPosition = s.wbPosition := by cases v <;> rfl
@[simp] theorem State.putValidity_wbTurn (s : State) (v : WordSel) (b : Bool) : (s.putValidity v b).wbTurn = s.wbTurn := by cases v <;> rfl
@[simp] theorem State.putValidity_pos (s : State) (v : WordSel) (b : Bool) : (s.putValidity v b).pos = s.pos := by cases v <;> rfl
@[simp] theorem State.putValidity_turn (s : State) (v : WordSel) (b : Bool) : (s.putValidity v b).turn = s.turn := by cases v <;> rfl
@[simp] theorem State.putValidity_rawp (s : State) (v : WordSel) (b : Bool) : (s.putValidity v b).rawp = s.rawp := by cases v <;> rfl
@[simp] theorem State.putValidity_rawt (s : State) (v : WordSel) (b : Bool) : (s.putValidity v b).rawt = s.rawt := by cases v <;> rfl
@[simp] theorem State.putValidity_valid (s : State) (v : WordSel) (b : Bool) : (s.putValidity v b).valid = s.valid := by cases v <;> rfl
@[simp] theorem State.putValidity_sclk (s : State) (v : WordSel) (b : Bool) : (s.putValidity v b).sclk = s.sclk := by cases v <;> rfl
@[simp] theorem State.putValidity_mosi (s : State) (v : WordSel) (b : Bool) : (s.putValidity v b).mosi = s.mosi := by cases v <;> rfl
@[simp] theorem State.putValidity_miso (s : State) (v : WordSel) (b : Bool) : (s.putValidity v b).miso = s.miso := by cases v <;> rfl
@[simp] theorem State.putValidity_tx (s : State) (v : WordSel) (b : Bool) : (s.putValidity v b).tx = s.tx := by cases v <;> rfl
@[simp] theorem State.putValidity_rx (s : State) (v : WordSel) (b : Bool) : (s.putValidity v b).rx = s.rx := by cases v <;> rfl
@[simp] theorem State.putValidity_bitcnt (s : State) (v : WordSel) (b : Bool) : (s.putValidity v b).bitcnt = s.bitcnt := by cases v <;> rfl
@[simp] theorem State.putValidity_timer (s : State) (v : WordSel) (b : Bool) : (s.putValidity v b).timer = s.timer := by cases v <;> rfl
@[simp] theorem State.putValidity_pubReq (s : State) (v : WordSel) (b : Bool) : (s.putValidity v b).pubReq = s.pubReq := by cases v <;> rfl
@[simp] theorem State.putValidity_pubRelease (s : State) (v : WordSel) (b : Bool) : (s.putValidity v b).pubRelease = s.pubRelease := by cases v <;> rfl
@[simp] theorem State.putValidity_pubBuf (s : State) (v : WordSel) (b : Bool) : (s.putValidity v b).pubBuf = s.pubBuf := by cases v <;> rfl
@[simp] theorem State.putValidity_pubAck (s : State) (v : WordSel) (b : Bool) : (s.putValidity v b).pubAck = s.pubAck := by cases v <;> rfl
@[simp] theorem State.putValidity_fault (s : State) (v : WordSel) (b : Bool) : (s.putValidity v b).fault = s.fault := by cases v <;> rfl
@[simp] theorem State.putValidity_extraTicks (s : State) (v : WordSel) (b : Bool) : (s.putValidity v b).extraTicks = s.extraTicks := by cases v <;> rfl
@[simp] theorem State.putValidity_draws (s : State) (v : WordSel) (b : Bool) : (s.putValidity v b).draws = s.draws := by cases v <;> rfl
@[simp] theorem State.putValidity_channel (s : State) (v : WordSel) (b : Bool) : (s.putValidity v b).channel = s.channel := by cases v <;> rfl
@[simp] theorem State.putValidity_channelOk (s : State) (v : WordSel) (b : Bool) : (s.putValidity v b).channelOk = s.channelOk := by cases v <;> rfl
@[simp] theorem State.putValidity_anySelected (s : State) (v : WordSel) (b : Bool) : (s.putValidity v b).anySelected = s.anySelected := by cases v <;> rfl
@[simp] theorem State.putValidity_channelArray (s : State) (v : WordSel) (b : Bool) : (s.putValidity v b).channelArray = s.channelArray := by cases v <;> rfl
@[simp] theorem State.putValidity_exchanging (s : State) (v : WordSel) (b : Bool) : (s.putValidity v b).exchanging = s.exchanging := by cases v <;> rfl
@[simp] theorem State.putValidity_selected (s : State) (v : WordSel) (b : Bool) (i : Nat) : (s.putValidity v b).selected i = s.selected i := by cases v <;> rfl
@[simp] theorem State.putValidity_lit (s : State) (v : WordSel) (b : Bool) (i : Nat) : (s.putValidity v b).lit i = s.lit i := by cases v <;> rfl
@[simp] theorem State.putValidity_posAt (s : State) (v : WordSel) (b : Bool) (i : Nat) : (s.putValidity v b).posAt i = s.posAt i := by cases v <;> rfl
@[simp] theorem State.putValidity_turnAt (s : State) (v : WordSel) (b : Bool) (i : Nat) : (s.putValidity v b).turnAt i = s.turnAt i := by cases v <;> rfl
@[simp] theorem State.putValidity_rawpAt (s : State) (v : WordSel) (b : Bool) (i : Nat) : (s.putValidity v b).rawpAt i = s.rawpAt i := by cases v <;> rfl
@[simp] theorem State.putValidity_rawtAt (s : State) (v : WordSel) (b : Bool) (i : Nat) : (s.putValidity v b).rawtAt i = s.rawtAt i := by cases v <;> rfl
@[simp] theorem State.putValidity_validAt (s : State) (v : WordSel) (b : Bool) (i : Nat) : (s.putValidity v b).validAt i = s.validAt i := by cases v <;> rfl
@[simp] theorem State.putValidity_publishedAt (s : State) (v : WordSel) (b : Bool) (i : Nat) : (s.putValidity v b).publishedAt i = s.publishedAt i := by cases v <;> rfl
@[simp] theorem State.putValidity_word (s : State) (v : WordSel) (b : Bool) (w : WordSel) : (s.putValidity v b).word w = s.word w := by cases v <;> rfl
@[simp] theorem State.putValidity_byteAt (s : State) (v : WordSel) (b : Bool) (w : WordSel) (k : ByteSel) : (s.putValidity v b).byteAt w k = s.byteAt w k := by cases v <;> rfl

/-! ### `State.putReading` -/

@[simp] theorem State.putReading_cfg (s : State) (v : WordSel) (n : Nat) (r x : Word) : (s.putReading v n r x).cfg = s.cfg := by cases v <;> rfl
@[simp] theorem State.putReading_rom (s : State) (v : WordSel) (n : Nat) (r x : Word) : (s.putReading v n r x).rom = s.rom := by cases v <;> rfl
@[simp] theorem State.putReading_upc (s : State) (v : WordSel) (n : Nat) (r x : Word) : (s.putReading v n r x).upc = s.upc := by cases v <;> rfl
@[simp] theorem State.putReading_upcCarry (s : State) (v : WordSel) (n : Nat) (r x : Word) : (s.putReading v n r x).upcCarry = s.upcCarry := by cases v <;> rfl
@[simp] theorem State.putReading_phase (s : State) (v : WordSel) (n : Nat) (r x : Word) : (s.putReading v n r x).phase = s.phase := by cases v <;> rfl
@[simp] theorem State.putReading_ch (s : State) (v : WordSel) (n : Nat) (r x : Word) : (s.putReading v n r x).ch = s.ch := by cases v <;> rfl
@[simp] theorem State.putReading_cs (s : State) (v : WordSel) (n : Nat) (r x : Word) : (s.putReading v n r x).cs = s.cs := by cases v <;> rfl
@[simp] theorem State.putReading_led (s : State) (v : WordSel) (n : Nat) (r x : Word) : (s.putReading v n r x).led = s.led := by cases v <;> rfl
@[simp] theorem State.putReading_wbPosition (s : State) (v : WordSel) (n : Nat) (r x : Word) : (s.putReading v n r x).wbPosition = s.wbPosition := by cases v <;> rfl
@[simp] theorem State.putReading_wbTurn (s : State) (v : WordSel) (n : Nat) (r x : Word) : (s.putReading v n r x).wbTurn = s.wbTurn := by cases v <;> rfl
@[simp] theorem State.putReading_vPosition (s : State) (v : WordSel) (n : Nat) (r x : Word) : (s.putReading v n r x).vPosition = s.vPosition := by cases v <;> rfl
@[simp] theorem State.putReading_vTurn (s : State) (v : WordSel) (n : Nat) (r x : Word) : (s.putReading v n r x).vTurn = s.vTurn := by cases v <;> rfl
@[simp] theorem State.putReading_valid (s : State) (v : WordSel) (n : Nat) (r x : Word) : (s.putReading v n r x).valid = s.valid := by cases v <;> rfl
@[simp] theorem State.putReading_sclk (s : State) (v : WordSel) (n : Nat) (r x : Word) : (s.putReading v n r x).sclk = s.sclk := by cases v <;> rfl
@[simp] theorem State.putReading_mosi (s : State) (v : WordSel) (n : Nat) (r x : Word) : (s.putReading v n r x).mosi = s.mosi := by cases v <;> rfl
@[simp] theorem State.putReading_miso (s : State) (v : WordSel) (n : Nat) (r x : Word) : (s.putReading v n r x).miso = s.miso := by cases v <;> rfl
@[simp] theorem State.putReading_tx (s : State) (v : WordSel) (n : Nat) (r x : Word) : (s.putReading v n r x).tx = s.tx := by cases v <;> rfl
@[simp] theorem State.putReading_rx (s : State) (v : WordSel) (n : Nat) (r x : Word) : (s.putReading v n r x).rx = s.rx := by cases v <;> rfl
@[simp] theorem State.putReading_bitcnt (s : State) (v : WordSel) (n : Nat) (r x : Word) : (s.putReading v n r x).bitcnt = s.bitcnt := by cases v <;> rfl
@[simp] theorem State.putReading_timer (s : State) (v : WordSel) (n : Nat) (r x : Word) : (s.putReading v n r x).timer = s.timer := by cases v <;> rfl
@[simp] theorem State.putReading_pubReq (s : State) (v : WordSel) (n : Nat) (r x : Word) : (s.putReading v n r x).pubReq = s.pubReq := by cases v <;> rfl
@[simp] theorem State.putReading_pubRelease (s : State) (v : WordSel) (n : Nat) (r x : Word) : (s.putReading v n r x).pubRelease = s.pubRelease := by cases v <;> rfl
@[simp] theorem State.putReading_pubBuf (s : State) (v : WordSel) (n : Nat) (r x : Word) : (s.putReading v n r x).pubBuf = s.pubBuf := by cases v <;> rfl
@[simp] theorem State.putReading_pubAck (s : State) (v : WordSel) (n : Nat) (r x : Word) : (s.putReading v n r x).pubAck = s.pubAck := by cases v <;> rfl
@[simp] theorem State.putReading_fault (s : State) (v : WordSel) (n : Nat) (r x : Word) : (s.putReading v n r x).fault = s.fault := by cases v <;> rfl
@[simp] theorem State.putReading_extraTicks (s : State) (v : WordSel) (n : Nat) (r x : Word) : (s.putReading v n r x).extraTicks = s.extraTicks := by cases v <;> rfl
@[simp] theorem State.putReading_draws (s : State) (v : WordSel) (n : Nat) (r x : Word) : (s.putReading v n r x).draws = s.draws := by cases v <;> rfl
@[simp] theorem State.putReading_channel (s : State) (v : WordSel) (n : Nat) (r x : Word) : (s.putReading v n r x).channel = s.channel := by cases v <;> rfl
@[simp] theorem State.putReading_channelOk (s : State) (v : WordSel) (n : Nat) (r x : Word) : (s.putReading v n r x).channelOk = s.channelOk := by cases v <;> rfl
@[simp] theorem State.putReading_anySelected (s : State) (v : WordSel) (n : Nat) (r x : Word) : (s.putReading v n r x).anySelected = s.anySelected := by cases v <;> rfl
@[simp] theorem State.putReading_exchanging (s : State) (v : WordSel) (n : Nat) (r x : Word) : (s.putReading v n r x).exchanging = s.exchanging := by cases v <;> rfl
@[simp] theorem State.putReading_indicatorValue (s : State) (v : WordSel) (n : Nat) (r x : Word) : (s.putReading v n r x).indicatorValue = s.indicatorValue := by cases v <;> rfl
@[simp] theorem State.putReading_selected (s : State) (v : WordSel) (n : Nat) (r x : Word) (i : Nat) : (s.putReading v n r x).selected i = s.selected i := by cases v <;> rfl
@[simp] theorem State.putReading_lit (s : State) (v : WordSel) (n : Nat) (r x : Word) (i : Nat) : (s.putReading v n r x).lit i = s.lit i := by cases v <;> rfl
@[simp] theorem State.putReading_validAt (s : State) (v : WordSel) (n : Nat) (r x : Word) (i : Nat) : (s.putReading v n r x).validAt i = s.validAt i := by cases v <;> rfl
@[simp] theorem State.putReading_publishedAt (s : State) (v : WordSel) (n : Nat) (r x : Word) (i : Nat) : (s.putReading v n r x).publishedAt i = s.publishedAt i := by cases v <;> rfl
@[simp] theorem State.putReading_validity (s : State) (v : WordSel) (n : Nat) (r x : Word) (w : WordSel) : (s.putReading v n r x).validity w = s.validity w := by cases v <;> rfl
@[simp] theorem State.putReading_word (s : State) (v : WordSel) (n : Nat) (r x : Word) (w : WordSel) : (s.putReading v n r x).word w = s.word w := by cases v <;> rfl
@[simp] theorem State.putReading_byteAt (s : State) (v : WordSel) (n : Nat) (r x : Word) (w : WordSel) (k : ByteSel) : (s.putReading v n r x).byteAt w k = s.byteAt w k := by cases v <;> rfl

/-! ### `State.putChannel` -/

@[simp] theorem State.putChannel_cfg (s : State) (n : Byte) : (s.putChannel n).cfg = s.cfg := rfl
@[simp] theorem State.putChannel_rom (s : State) (n : Byte) : (s.putChannel n).rom = s.rom := rfl
@[simp] theorem State.putChannel_upc (s : State) (n : Byte) : (s.putChannel n).upc = s.upc := rfl
@[simp] theorem State.putChannel_upcCarry (s : State) (n : Byte) : (s.putChannel n).upcCarry = s.upcCarry := rfl
@[simp] theorem State.putChannel_phase (s : State) (n : Byte) : (s.putChannel n).phase = s.phase := rfl
@[simp] theorem State.putChannel_ch (s : State) (n : Byte) : (s.putChannel n).ch = n := rfl
@[simp] theorem State.putChannel_cs (s : State) (n : Byte) : (s.putChannel n).cs = s.cs := rfl
@[simp] theorem State.putChannel_led (s : State) (n : Byte) : (s.putChannel n).led = s.led := rfl
@[simp] theorem State.putChannel_wbPosition (s : State) (n : Byte) : (s.putChannel n).wbPosition = s.wbPosition := rfl
@[simp] theorem State.putChannel_wbTurn (s : State) (n : Byte) : (s.putChannel n).wbTurn = s.wbTurn := rfl
@[simp] theorem State.putChannel_vPosition (s : State) (n : Byte) : (s.putChannel n).vPosition = s.vPosition := rfl
@[simp] theorem State.putChannel_vTurn (s : State) (n : Byte) : (s.putChannel n).vTurn = s.vTurn := rfl
@[simp] theorem State.putChannel_pos (s : State) (n : Byte) : (s.putChannel n).pos = s.pos := rfl
@[simp] theorem State.putChannel_turn (s : State) (n : Byte) : (s.putChannel n).turn = s.turn := rfl
@[simp] theorem State.putChannel_rawp (s : State) (n : Byte) : (s.putChannel n).rawp = s.rawp := rfl
@[simp] theorem State.putChannel_rawt (s : State) (n : Byte) : (s.putChannel n).rawt = s.rawt := rfl
@[simp] theorem State.putChannel_valid (s : State) (n : Byte) : (s.putChannel n).valid = s.valid := rfl
@[simp] theorem State.putChannel_sclk (s : State) (n : Byte) : (s.putChannel n).sclk = s.sclk := rfl
@[simp] theorem State.putChannel_mosi (s : State) (n : Byte) : (s.putChannel n).mosi = s.mosi := rfl
@[simp] theorem State.putChannel_miso (s : State) (n : Byte) : (s.putChannel n).miso = s.miso := rfl
@[simp] theorem State.putChannel_tx (s : State) (n : Byte) : (s.putChannel n).tx = s.tx := rfl
@[simp] theorem State.putChannel_rx (s : State) (n : Byte) : (s.putChannel n).rx = s.rx := rfl
@[simp] theorem State.putChannel_bitcnt (s : State) (n : Byte) : (s.putChannel n).bitcnt = s.bitcnt := rfl
@[simp] theorem State.putChannel_timer (s : State) (n : Byte) : (s.putChannel n).timer = s.timer := rfl
@[simp] theorem State.putChannel_pubReq (s : State) (n : Byte) : (s.putChannel n).pubReq = s.pubReq := rfl
@[simp] theorem State.putChannel_pubRelease (s : State) (n : Byte) : (s.putChannel n).pubRelease = s.pubRelease := rfl
@[simp] theorem State.putChannel_pubBuf (s : State) (n : Byte) : (s.putChannel n).pubBuf = s.pubBuf := rfl
@[simp] theorem State.putChannel_pubAck (s : State) (n : Byte) : (s.putChannel n).pubAck = s.pubAck := rfl
@[simp] theorem State.putChannel_fault (s : State) (n : Byte) : (s.putChannel n).fault = s.fault := rfl
@[simp] theorem State.putChannel_extraTicks (s : State) (n : Byte) : (s.putChannel n).extraTicks = s.extraTicks := rfl
@[simp] theorem State.putChannel_draws (s : State) (n : Byte) : (s.putChannel n).draws = s.draws := rfl
@[simp] theorem State.putChannel_anySelected (s : State) (n : Byte) : (s.putChannel n).anySelected = s.anySelected := rfl
@[simp] theorem State.putChannel_channelArray (s : State) (n : Byte) : (s.putChannel n).channelArray = s.channelArray := rfl
@[simp] theorem State.putChannel_exchanging (s : State) (n : Byte) : (s.putChannel n).exchanging = s.exchanging := rfl
@[simp] theorem State.putChannel_indicatorValue (s : State) (n : Byte) : (s.putChannel n).indicatorValue = s.indicatorValue := rfl
@[simp] theorem State.putChannel_selected (s : State) (n : Byte) (i : Nat) : (s.putChannel n).selected i = s.selected i := rfl
@[simp] theorem State.putChannel_lit (s : State) (n : Byte) (i : Nat) : (s.putChannel n).lit i = s.lit i := rfl
@[simp] theorem State.putChannel_posAt (s : State) (n : Byte) (i : Nat) : (s.putChannel n).posAt i = s.posAt i := rfl
@[simp] theorem State.putChannel_turnAt (s : State) (n : Byte) (i : Nat) : (s.putChannel n).turnAt i = s.turnAt i := rfl
@[simp] theorem State.putChannel_rawpAt (s : State) (n : Byte) (i : Nat) : (s.putChannel n).rawpAt i = s.rawpAt i := rfl
@[simp] theorem State.putChannel_rawtAt (s : State) (n : Byte) (i : Nat) : (s.putChannel n).rawtAt i = s.rawtAt i := rfl
@[simp] theorem State.putChannel_validAt (s : State) (n : Byte) (i : Nat) : (s.putChannel n).validAt i = s.validAt i := rfl
@[simp] theorem State.putChannel_publishedAt (s : State) (n : Byte) (i : Nat) : (s.putChannel n).publishedAt i = s.publishedAt i := rfl
@[simp] theorem State.putChannel_validity (s : State) (n : Byte) (w : WordSel) : (s.putChannel n).validity w = s.validity w := rfl
@[simp] theorem State.putChannel_word (s : State) (n : Byte) (w : WordSel) : (s.putChannel n).word w = s.word w := rfl
@[simp] theorem State.putChannel_byteAt (s : State) (n : Byte) (w : WordSel) (k : ByteSel) : (s.putChannel n).byteAt w k = s.byteAt w k := rfl

/-! ### `State.clockRise` -/

@[simp] theorem State.clockRise_cfg (s : State) (x : Byte) (n : Nat) : (s.clockRise x n).cfg = s.cfg := rfl
@[simp] theorem State.clockRise_rom (s : State) (x : Byte) (n : Nat) : (s.clockRise x n).rom = s.rom := rfl
@[simp] theorem State.clockRise_upc (s : State) (x : Byte) (n : Nat) : (s.clockRise x n).upc = s.upc := rfl
@[simp] theorem State.clockRise_upcCarry (s : State) (x : Byte) (n : Nat) : (s.clockRise x n).upcCarry = s.upcCarry := rfl
@[simp] theorem State.clockRise_phase (s : State) (x : Byte) (n : Nat) : (s.clockRise x n).phase = s.phase := rfl
@[simp] theorem State.clockRise_ch (s : State) (x : Byte) (n : Nat) : (s.clockRise x n).ch = s.ch := rfl
@[simp] theorem State.clockRise_cs (s : State) (x : Byte) (n : Nat) : (s.clockRise x n).cs = s.cs := rfl
@[simp] theorem State.clockRise_led (s : State) (x : Byte) (n : Nat) : (s.clockRise x n).led = s.led := rfl
@[simp] theorem State.clockRise_wbPosition (s : State) (x : Byte) (n : Nat) : (s.clockRise x n).wbPosition = s.wbPosition := rfl
@[simp] theorem State.clockRise_wbTurn (s : State) (x : Byte) (n : Nat) : (s.clockRise x n).wbTurn = s.wbTurn := rfl
@[simp] theorem State.clockRise_vPosition (s : State) (x : Byte) (n : Nat) : (s.clockRise x n).vPosition = s.vPosition := rfl
@[simp] theorem State.clockRise_vTurn (s : State) (x : Byte) (n : Nat) : (s.clockRise x n).vTurn = s.vTurn := rfl
@[simp] theorem State.clockRise_pos (s : State) (x : Byte) (n : Nat) : (s.clockRise x n).pos = s.pos := rfl
@[simp] theorem State.clockRise_turn (s : State) (x : Byte) (n : Nat) : (s.clockRise x n).turn = s.turn := rfl
@[simp] theorem State.clockRise_rawp (s : State) (x : Byte) (n : Nat) : (s.clockRise x n).rawp = s.rawp := rfl
@[simp] theorem State.clockRise_rawt (s : State) (x : Byte) (n : Nat) : (s.clockRise x n).rawt = s.rawt := rfl
@[simp] theorem State.clockRise_valid (s : State) (x : Byte) (n : Nat) : (s.clockRise x n).valid = s.valid := rfl
@[simp] theorem State.clockRise_sclk (s : State) (x : Byte) (n : Nat) : (s.clockRise x n).sclk = true := rfl
@[simp] theorem State.clockRise_mosi (s : State) (x : Byte) (n : Nat) : (s.clockRise x n).mosi = x.getLsbD (cellBit n) := rfl
@[simp] theorem State.clockRise_miso (s : State) (x : Byte) (n : Nat) : (s.clockRise x n).miso = s.miso := rfl
@[simp] theorem State.clockRise_tx (s : State) (x : Byte) (n : Nat) : (s.clockRise x n).tx = some x := rfl
@[simp] theorem State.clockRise_rx (s : State) (x : Byte) (n : Nat) : (s.clockRise x n).rx = some (setBit (s.rx.getD Config.freeRx) (cellBit n) s.miso) := rfl
@[simp] theorem State.clockRise_bitcnt (s : State) (x : Byte) (n : Nat) : (s.clockRise x n).bitcnt = n := rfl
@[simp] theorem State.clockRise_timer (s : State) (x : Byte) (n : Nat) : (s.clockRise x n).timer = s.timer := rfl
@[simp] theorem State.clockRise_pubReq (s : State) (x : Byte) (n : Nat) : (s.clockRise x n).pubReq = s.pubReq := rfl
@[simp] theorem State.clockRise_pubRelease (s : State) (x : Byte) (n : Nat) : (s.clockRise x n).pubRelease = s.pubRelease := rfl
@[simp] theorem State.clockRise_pubBuf (s : State) (x : Byte) (n : Nat) : (s.clockRise x n).pubBuf = s.pubBuf := rfl
@[simp] theorem State.clockRise_pubAck (s : State) (x : Byte) (n : Nat) : (s.clockRise x n).pubAck = s.pubAck := rfl
@[simp] theorem State.clockRise_fault (s : State) (x : Byte) (n : Nat) : (s.clockRise x n).fault = s.fault := rfl
@[simp] theorem State.clockRise_extraTicks (s : State) (x : Byte) (n : Nat) : (s.clockRise x n).extraTicks = s.extraTicks := rfl
@[simp] theorem State.clockRise_draws (s : State) (x : Byte) (n : Nat) : (s.clockRise x n).draws = s.draws := rfl
@[simp] theorem State.clockRise_channel (s : State) (x : Byte) (n : Nat) : (s.clockRise x n).channel = s.channel := rfl
@[simp] theorem State.clockRise_channelOk (s : State) (x : Byte) (n : Nat) : (s.clockRise x n).channelOk = s.channelOk := rfl
@[simp] theorem State.clockRise_anySelected (s : State) (x : Byte) (n : Nat) : (s.clockRise x n).anySelected = s.anySelected := rfl
@[simp] theorem State.clockRise_channelArray (s : State) (x : Byte) (n : Nat) : (s.clockRise x n).channelArray = s.channelArray := rfl
@[simp] theorem State.clockRise_indicatorValue (s : State) (x : Byte) (n : Nat) : (s.clockRise x n).indicatorValue = s.indicatorValue := rfl
@[simp] theorem State.clockRise_selected (s : State) (x : Byte) (n : Nat) (i : Nat) : (s.clockRise x n).selected i = s.selected i := rfl
@[simp] theorem State.clockRise_lit (s : State) (x : Byte) (n : Nat) (i : Nat) : (s.clockRise x n).lit i = s.lit i := rfl
@[simp] theorem State.clockRise_posAt (s : State) (x : Byte) (n : Nat) (i : Nat) : (s.clockRise x n).posAt i = s.posAt i := rfl
@[simp] theorem State.clockRise_turnAt (s : State) (x : Byte) (n : Nat) (i : Nat) : (s.clockRise x n).turnAt i = s.turnAt i := rfl
@[simp] theorem State.clockRise_rawpAt (s : State) (x : Byte) (n : Nat) (i : Nat) : (s.clockRise x n).rawpAt i = s.rawpAt i := rfl
@[simp] theorem State.clockRise_rawtAt (s : State) (x : Byte) (n : Nat) (i : Nat) : (s.clockRise x n).rawtAt i = s.rawtAt i := rfl
@[simp] theorem State.clockRise_validAt (s : State) (x : Byte) (n : Nat) (i : Nat) : (s.clockRise x n).validAt i = s.validAt i := rfl
@[simp] theorem State.clockRise_publishedAt (s : State) (x : Byte) (n : Nat) (i : Nat) : (s.clockRise x n).publishedAt i = s.publishedAt i := rfl
@[simp] theorem State.clockRise_validity (s : State) (x : Byte) (n : Nat) (w : WordSel) : (s.clockRise x n).validity w = s.validity w := rfl
@[simp] theorem State.clockRise_word (s : State) (x : Byte) (n : Nat) (w : WordSel) : (s.clockRise x n).word w = s.word w := rfl
@[simp] theorem State.clockRise_byteAt (s : State) (x : Byte) (n : Nat) (w : WordSel) (k : ByteSel) : (s.clockRise x n).byteAt w k = s.byteAt w k := rfl

/-! ### `State.clockFall` -/

@[simp] theorem State.clockFall_cfg (s : State) : (s.clockFall).cfg = s.cfg := rfl
@[simp] theorem State.clockFall_rom (s : State) : (s.clockFall).rom = s.rom := rfl
@[simp] theorem State.clockFall_upc (s : State) : (s.clockFall).upc = s.upc := rfl
@[simp] theorem State.clockFall_upcCarry (s : State) : (s.clockFall).upcCarry = s.upcCarry := rfl
@[simp] theorem State.clockFall_phase (s : State) : (s.clockFall).phase = s.phase := rfl
@[simp] theorem State.clockFall_ch (s : State) : (s.clockFall).ch = s.ch := rfl
@[simp] theorem State.clockFall_cs (s : State) : (s.clockFall).cs = s.cs := rfl
@[simp] theorem State.clockFall_led (s : State) : (s.clockFall).led = s.led := rfl
@[simp] theorem State.clockFall_wbPosition (s : State) : (s.clockFall).wbPosition = s.wbPosition := rfl
@[simp] theorem State.clockFall_wbTurn (s : State) : (s.clockFall).wbTurn = s.wbTurn := rfl
@[simp] theorem State.clockFall_vPosition (s : State) : (s.clockFall).vPosition = s.vPosition := rfl
@[simp] theorem State.clockFall_vTurn (s : State) : (s.clockFall).vTurn = s.vTurn := rfl
@[simp] theorem State.clockFall_pos (s : State) : (s.clockFall).pos = s.pos := rfl
@[simp] theorem State.clockFall_turn (s : State) : (s.clockFall).turn = s.turn := rfl
@[simp] theorem State.clockFall_rawp (s : State) : (s.clockFall).rawp = s.rawp := rfl
@[simp] theorem State.clockFall_rawt (s : State) : (s.clockFall).rawt = s.rawt := rfl
@[simp] theorem State.clockFall_valid (s : State) : (s.clockFall).valid = s.valid := rfl
@[simp] theorem State.clockFall_sclk (s : State) : (s.clockFall).sclk = false := rfl
@[simp] theorem State.clockFall_mosi (s : State) : (s.clockFall).mosi = s.mosi := rfl
@[simp] theorem State.clockFall_miso (s : State) : (s.clockFall).miso = s.miso := rfl
@[simp] theorem State.clockFall_tx (s : State) : (s.clockFall).tx = s.tx := rfl
@[simp] theorem State.clockFall_rx (s : State) : (s.clockFall).rx = s.rx := rfl
@[simp] theorem State.clockFall_bitcnt (s : State) : (s.clockFall).bitcnt = s.bitcnt + 1 := rfl
@[simp] theorem State.clockFall_timer (s : State) : (s.clockFall).timer = s.timer := rfl
@[simp] theorem State.clockFall_pubReq (s : State) : (s.clockFall).pubReq = s.pubReq := rfl
@[simp] theorem State.clockFall_pubRelease (s : State) : (s.clockFall).pubRelease = s.pubRelease := rfl
@[simp] theorem State.clockFall_pubBuf (s : State) : (s.clockFall).pubBuf = s.pubBuf := rfl
@[simp] theorem State.clockFall_pubAck (s : State) : (s.clockFall).pubAck = s.pubAck := rfl
@[simp] theorem State.clockFall_fault (s : State) : (s.clockFall).fault = s.fault := rfl
@[simp] theorem State.clockFall_extraTicks (s : State) : (s.clockFall).extraTicks = s.extraTicks := rfl
@[simp] theorem State.clockFall_draws (s : State) : (s.clockFall).draws = s.draws := rfl
@[simp] theorem State.clockFall_channel (s : State) : (s.clockFall).channel = s.channel := rfl
@[simp] theorem State.clockFall_channelOk (s : State) : (s.clockFall).channelOk = s.channelOk := rfl
@[simp] theorem State.clockFall_anySelected (s : State) : (s.clockFall).anySelected = s.anySelected := rfl
@[simp] theorem State.clockFall_channelArray (s : State) : (s.clockFall).channelArray = s.channelArray := rfl
@[simp] theorem State.clockFall_indicatorValue (s : State) : (s.clockFall).indicatorValue = s.indicatorValue := rfl
@[simp] theorem State.clockFall_selected (s : State) (i : Nat) : (s.clockFall).selected i = s.selected i := rfl
@[simp] theorem State.clockFall_lit (s : State) (i : Nat) : (s.clockFall).lit i = s.lit i := rfl
@[simp] theorem State.clockFall_posAt (s : State) (i : Nat) : (s.clockFall).posAt i = s.posAt i := rfl
@[simp] theorem State.clockFall_turnAt (s : State) (i : Nat) : (s.clockFall).turnAt i = s.turnAt i := rfl
@[simp] theorem State.clockFall_rawpAt (s : State) (i : Nat) : (s.clockFall).rawpAt i = s.rawpAt i := rfl
@[simp] theorem State.clockFall_rawtAt (s : State) (i : Nat) : (s.clockFall).rawtAt i = s.rawtAt i := rfl
@[simp] theorem State.clockFall_validAt (s : State) (i : Nat) : (s.clockFall).validAt i = s.validAt i := rfl
@[simp] theorem State.clockFall_publishedAt (s : State) (i : Nat) : (s.clockFall).publishedAt i = s.publishedAt i := rfl
@[simp] theorem State.clockFall_validity (s : State) (w : WordSel) : (s.clockFall).validity w = s.validity w := rfl
@[simp] theorem State.clockFall_word (s : State) (w : WordSel) : (s.clockFall).word w = s.word w := rfl
@[simp] theorem State.clockFall_byteAt (s : State) (w : WordSel) (k : ByteSel) : (s.clockFall).byteAt w k = s.byteAt w k := rfl

/-! ### `State.putTimer` -/

@[simp] theorem State.putTimer_cfg (s : State) (n : Nat) : (s.putTimer n).cfg = s.cfg := rfl
@[simp] theorem State.putTimer_rom (s : State) (n : Nat) : (s.putTimer n).rom = s.rom := rfl
@[simp] theorem State.putTimer_upc (s : State) (n : Nat) : (s.putTimer n).upc = s.upc := rfl
@[simp] theorem State.putTimer_upcCarry (s : State) (n : Nat) : (s.putTimer n).upcCarry = s.upcCarry := rfl
@[simp] theorem State.putTimer_phase (s : State) (n : Nat) : (s.putTimer n).phase = s.phase := rfl
@[simp] theorem State.putTimer_ch (s : State) (n : Nat) : (s.putTimer n).ch = s.ch := rfl
@[simp] theorem State.putTimer_cs (s : State) (n : Nat) : (s.putTimer n).cs = s.cs := rfl
@[simp] theorem State.putTimer_led (s : State) (n : Nat) : (s.putTimer n).led = s.led := rfl
@[simp] theorem State.putTimer_wbPosition (s : State) (n : Nat) : (s.putTimer n).wbPosition = s.wbPosition := rfl
@[simp] theorem State.putTimer_wbTurn (s : State) (n : Nat) : (s.putTimer n).wbTurn = s.wbTurn := rfl
@[simp] theorem State.putTimer_vPosition (s : State) (n : Nat) : (s.putTimer n).vPosition = s.vPosition := rfl
@[simp] theorem State.putTimer_vTurn (s : State) (n : Nat) : (s.putTimer n).vTurn = s.vTurn := rfl
@[simp] theorem State.putTimer_pos (s : State) (n : Nat) : (s.putTimer n).pos = s.pos := rfl
@[simp] theorem State.putTimer_turn (s : State) (n : Nat) : (s.putTimer n).turn = s.turn := rfl
@[simp] theorem State.putTimer_rawp (s : State) (n : Nat) : (s.putTimer n).rawp = s.rawp := rfl
@[simp] theorem State.putTimer_rawt (s : State) (n : Nat) : (s.putTimer n).rawt = s.rawt := rfl
@[simp] theorem State.putTimer_valid (s : State) (n : Nat) : (s.putTimer n).valid = s.valid := rfl
@[simp] theorem State.putTimer_sclk (s : State) (n : Nat) : (s.putTimer n).sclk = s.sclk := rfl
@[simp] theorem State.putTimer_mosi (s : State) (n : Nat) : (s.putTimer n).mosi = s.mosi := rfl
@[simp] theorem State.putTimer_miso (s : State) (n : Nat) : (s.putTimer n).miso = s.miso := rfl
@[simp] theorem State.putTimer_tx (s : State) (n : Nat) : (s.putTimer n).tx = s.tx := rfl
@[simp] theorem State.putTimer_rx (s : State) (n : Nat) : (s.putTimer n).rx = s.rx := rfl
@[simp] theorem State.putTimer_bitcnt (s : State) (n : Nat) : (s.putTimer n).bitcnt = s.bitcnt := rfl
@[simp] theorem State.putTimer_timer (s : State) (n : Nat) : (s.putTimer n).timer = n := rfl
@[simp] theorem State.putTimer_pubReq (s : State) (n : Nat) : (s.putTimer n).pubReq = s.pubReq := rfl
@[simp] theorem State.putTimer_pubRelease (s : State) (n : Nat) : (s.putTimer n).pubRelease = s.pubRelease := rfl
@[simp] theorem State.putTimer_pubBuf (s : State) (n : Nat) : (s.putTimer n).pubBuf = s.pubBuf := rfl
@[simp] theorem State.putTimer_pubAck (s : State) (n : Nat) : (s.putTimer n).pubAck = s.pubAck := rfl
@[simp] theorem State.putTimer_fault (s : State) (n : Nat) : (s.putTimer n).fault = s.fault := rfl
@[simp] theorem State.putTimer_extraTicks (s : State) (n : Nat) : (s.putTimer n).extraTicks = s.extraTicks := rfl
@[simp] theorem State.putTimer_draws (s : State) (n : Nat) : (s.putTimer n).draws = s.draws := rfl
@[simp] theorem State.putTimer_channel (s : State) (n : Nat) : (s.putTimer n).channel = s.channel := rfl
@[simp] theorem State.putTimer_channelOk (s : State) (n : Nat) : (s.putTimer n).channelOk = s.channelOk := rfl
@[simp] theorem State.putTimer_anySelected (s : State) (n : Nat) : (s.putTimer n).anySelected = s.anySelected := rfl
@[simp] theorem State.putTimer_channelArray (s : State) (n : Nat) : (s.putTimer n).channelArray = s.channelArray := rfl
@[simp] theorem State.putTimer_exchanging (s : State) (n : Nat) : (s.putTimer n).exchanging = s.exchanging := rfl
@[simp] theorem State.putTimer_indicatorValue (s : State) (n : Nat) : (s.putTimer n).indicatorValue = s.indicatorValue := rfl
@[simp] theorem State.putTimer_selected (s : State) (n : Nat) (i : Nat) : (s.putTimer n).selected i = s.selected i := rfl
@[simp] theorem State.putTimer_lit (s : State) (n : Nat) (i : Nat) : (s.putTimer n).lit i = s.lit i := rfl
@[simp] theorem State.putTimer_posAt (s : State) (n : Nat) (i : Nat) : (s.putTimer n).posAt i = s.posAt i := rfl
@[simp] theorem State.putTimer_turnAt (s : State) (n : Nat) (i : Nat) : (s.putTimer n).turnAt i = s.turnAt i := rfl
@[simp] theorem State.putTimer_rawpAt (s : State) (n : Nat) (i : Nat) : (s.putTimer n).rawpAt i = s.rawpAt i := rfl
@[simp] theorem State.putTimer_rawtAt (s : State) (n : Nat) (i : Nat) : (s.putTimer n).rawtAt i = s.rawtAt i := rfl
@[simp] theorem State.putTimer_validAt (s : State) (n : Nat) (i : Nat) : (s.putTimer n).validAt i = s.validAt i := rfl
@[simp] theorem State.putTimer_publishedAt (s : State) (n : Nat) (i : Nat) : (s.putTimer n).publishedAt i = s.publishedAt i := rfl
@[simp] theorem State.putTimer_validity (s : State) (n : Nat) (w : WordSel) : (s.putTimer n).validity w = s.validity w := rfl
@[simp] theorem State.putTimer_word (s : State) (n : Nat) (w : WordSel) : (s.putTimer n).word w = s.word w := rfl
@[simp] theorem State.putTimer_byteAt (s : State) (n : Nat) (w : WordSel) (k : ByteSel) : (s.putTimer n).byteAt w k = s.byteAt w k := rfl

/-! ### `State.publish` -/

@[simp] theorem State.publish_cfg (s : State) (a : List (Option Word)) : (s.publish a).cfg = s.cfg := rfl
@[simp] theorem State.publish_rom (s : State) (a : List (Option Word)) : (s.publish a).rom = s.rom := rfl
@[simp] theorem State.publish_upc (s : State) (a : List (Option Word)) : (s.publish a).upc = s.upc := rfl
@[simp] theorem State.publish_upcCarry (s : State) (a : List (Option Word)) : (s.publish a).upcCarry = s.upcCarry := rfl
@[simp] theorem State.publish_phase (s : State) (a : List (Option Word)) : (s.publish a).phase = s.phase := rfl
@[simp] theorem State.publish_ch (s : State) (a : List (Option Word)) : (s.publish a).ch = s.ch := rfl
@[simp] theorem State.publish_cs (s : State) (a : List (Option Word)) : (s.publish a).cs = s.cs := rfl
@[simp] theorem State.publish_led (s : State) (a : List (Option Word)) : (s.publish a).led = s.led := rfl
@[simp] theorem State.publish_wbPosition (s : State) (a : List (Option Word)) : (s.publish a).wbPosition = s.wbPosition := rfl
@[simp] theorem State.publish_wbTurn (s : State) (a : List (Option Word)) : (s.publish a).wbTurn = s.wbTurn := rfl
@[simp] theorem State.publish_vPosition (s : State) (a : List (Option Word)) : (s.publish a).vPosition = s.vPosition := rfl
@[simp] theorem State.publish_vTurn (s : State) (a : List (Option Word)) : (s.publish a).vTurn = s.vTurn := rfl
@[simp] theorem State.publish_pos (s : State) (a : List (Option Word)) : (s.publish a).pos = s.pos := rfl
@[simp] theorem State.publish_turn (s : State) (a : List (Option Word)) : (s.publish a).turn = s.turn := rfl
@[simp] theorem State.publish_rawp (s : State) (a : List (Option Word)) : (s.publish a).rawp = s.rawp := rfl
@[simp] theorem State.publish_rawt (s : State) (a : List (Option Word)) : (s.publish a).rawt = s.rawt := rfl
@[simp] theorem State.publish_valid (s : State) (a : List (Option Word)) : (s.publish a).valid = s.valid := rfl
@[simp] theorem State.publish_sclk (s : State) (a : List (Option Word)) : (s.publish a).sclk = s.sclk := rfl
@[simp] theorem State.publish_mosi (s : State) (a : List (Option Word)) : (s.publish a).mosi = s.mosi := rfl
@[simp] theorem State.publish_miso (s : State) (a : List (Option Word)) : (s.publish a).miso = s.miso := rfl
@[simp] theorem State.publish_tx (s : State) (a : List (Option Word)) : (s.publish a).tx = s.tx := rfl
@[simp] theorem State.publish_rx (s : State) (a : List (Option Word)) : (s.publish a).rx = s.rx := rfl
@[simp] theorem State.publish_bitcnt (s : State) (a : List (Option Word)) : (s.publish a).bitcnt = s.bitcnt := rfl
@[simp] theorem State.publish_timer (s : State) (a : List (Option Word)) : (s.publish a).timer = s.timer := rfl
@[simp] theorem State.publish_pubReq (s : State) (a : List (Option Word)) : (s.publish a).pubReq = true := rfl
@[simp] theorem State.publish_pubRelease (s : State) (a : List (Option Word)) : (s.publish a).pubRelease = s.pubRelease := rfl
@[simp] theorem State.publish_pubBuf (s : State) (a : List (Option Word)) : (s.publish a).pubBuf = a := rfl
@[simp] theorem State.publish_pubAck (s : State) (a : List (Option Word)) : (s.publish a).pubAck = s.pubAck := rfl
@[simp] theorem State.publish_fault (s : State) (a : List (Option Word)) : (s.publish a).fault = s.fault := rfl
@[simp] theorem State.publish_extraTicks (s : State) (a : List (Option Word)) : (s.publish a).extraTicks = s.extraTicks := rfl
@[simp] theorem State.publish_draws (s : State) (a : List (Option Word)) : (s.publish a).draws = s.draws := rfl
@[simp] theorem State.publish_channel (s : State) (a : List (Option Word)) : (s.publish a).channel = s.channel := rfl
@[simp] theorem State.publish_channelOk (s : State) (a : List (Option Word)) : (s.publish a).channelOk = s.channelOk := rfl
@[simp] theorem State.publish_anySelected (s : State) (a : List (Option Word)) : (s.publish a).anySelected = s.anySelected := rfl
@[simp] theorem State.publish_channelArray (s : State) (a : List (Option Word)) : (s.publish a).channelArray = s.channelArray := rfl
@[simp] theorem State.publish_exchanging (s : State) (a : List (Option Word)) : (s.publish a).exchanging = s.exchanging := rfl
@[simp] theorem State.publish_indicatorValue (s : State) (a : List (Option Word)) : (s.publish a).indicatorValue = s.indicatorValue := rfl
@[simp] theorem State.publish_selected (s : State) (a : List (Option Word)) (i : Nat) : (s.publish a).selected i = s.selected i := rfl
@[simp] theorem State.publish_lit (s : State) (a : List (Option Word)) (i : Nat) : (s.publish a).lit i = s.lit i := rfl
@[simp] theorem State.publish_posAt (s : State) (a : List (Option Word)) (i : Nat) : (s.publish a).posAt i = s.posAt i := rfl
@[simp] theorem State.publish_turnAt (s : State) (a : List (Option Word)) (i : Nat) : (s.publish a).turnAt i = s.turnAt i := rfl
@[simp] theorem State.publish_rawpAt (s : State) (a : List (Option Word)) (i : Nat) : (s.publish a).rawpAt i = s.rawpAt i := rfl
@[simp] theorem State.publish_rawtAt (s : State) (a : List (Option Word)) (i : Nat) : (s.publish a).rawtAt i = s.rawtAt i := rfl
@[simp] theorem State.publish_validAt (s : State) (a : List (Option Word)) (i : Nat) : (s.publish a).validAt i = s.validAt i := rfl
@[simp] theorem State.publish_validity (s : State) (a : List (Option Word)) (w : WordSel) : (s.publish a).validity w = s.validity w := rfl
@[simp] theorem State.publish_word (s : State) (a : List (Option Word)) (w : WordSel) : (s.publish a).word w = s.word w := rfl
@[simp] theorem State.publish_byteAt (s : State) (a : List (Option Word)) (w : WordSel) (k : ByteSel) : (s.publish a).byteAt w k = s.byteAt w k := rfl

/-! ### `State.withdraw` -/

@[simp] theorem State.withdraw_cfg (s : State) : (s.withdraw).cfg = s.cfg := rfl
@[simp] theorem State.withdraw_rom (s : State) : (s.withdraw).rom = s.rom := rfl
@[simp] theorem State.withdraw_upc (s : State) : (s.withdraw).upc = s.upc := rfl
@[simp] theorem State.withdraw_upcCarry (s : State) : (s.withdraw).upcCarry = s.upcCarry := rfl
@[simp] theorem State.withdraw_phase (s : State) : (s.withdraw).phase = s.phase := rfl
@[simp] theorem State.withdraw_ch (s : State) : (s.withdraw).ch = s.ch := rfl
@[simp] theorem State.withdraw_cs (s : State) : (s.withdraw).cs = s.cs := rfl
@[simp] theorem State.withdraw_led (s : State) : (s.withdraw).led = s.led := rfl
@[simp] theorem State.withdraw_wbPosition (s : State) : (s.withdraw).wbPosition = s.wbPosition := rfl
@[simp] theorem State.withdraw_wbTurn (s : State) : (s.withdraw).wbTurn = s.wbTurn := rfl
@[simp] theorem State.withdraw_vPosition (s : State) : (s.withdraw).vPosition = s.vPosition := rfl
@[simp] theorem State.withdraw_vTurn (s : State) : (s.withdraw).vTurn = s.vTurn := rfl
@[simp] theorem State.withdraw_pos (s : State) : (s.withdraw).pos = s.pos := rfl
@[simp] theorem State.withdraw_turn (s : State) : (s.withdraw).turn = s.turn := rfl
@[simp] theorem State.withdraw_rawp (s : State) : (s.withdraw).rawp = s.rawp := rfl
@[simp] theorem State.withdraw_rawt (s : State) : (s.withdraw).rawt = s.rawt := rfl
@[simp] theorem State.withdraw_valid (s : State) : (s.withdraw).valid = s.valid := rfl
@[simp] theorem State.withdraw_sclk (s : State) : (s.withdraw).sclk = s.sclk := rfl
@[simp] theorem State.withdraw_mosi (s : State) : (s.withdraw).mosi = s.mosi := rfl
@[simp] theorem State.withdraw_miso (s : State) : (s.withdraw).miso = s.miso := rfl
@[simp] theorem State.withdraw_tx (s : State) : (s.withdraw).tx = s.tx := rfl
@[simp] theorem State.withdraw_rx (s : State) : (s.withdraw).rx = s.rx := rfl
@[simp] theorem State.withdraw_bitcnt (s : State) : (s.withdraw).bitcnt = s.bitcnt := rfl
@[simp] theorem State.withdraw_timer (s : State) : (s.withdraw).timer = s.timer := rfl
@[simp] theorem State.withdraw_pubReq (s : State) : (s.withdraw).pubReq = false := rfl
@[simp] theorem State.withdraw_pubRelease (s : State) : (s.withdraw).pubRelease = true := rfl
@[simp] theorem State.withdraw_pubBuf (s : State) : (s.withdraw).pubBuf = s.pubBuf := rfl
@[simp] theorem State.withdraw_pubAck (s : State) : (s.withdraw).pubAck = s.pubAck := rfl
@[simp] theorem State.withdraw_fault (s : State) : (s.withdraw).fault = s.fault := rfl
@[simp] theorem State.withdraw_extraTicks (s : State) : (s.withdraw).extraTicks = s.extraTicks := rfl
@[simp] theorem State.withdraw_draws (s : State) : (s.withdraw).draws = s.draws := rfl
@[simp] theorem State.withdraw_channel (s : State) : (s.withdraw).channel = s.channel := rfl
@[simp] theorem State.withdraw_channelOk (s : State) : (s.withdraw).channelOk = s.channelOk := rfl
@[simp] theorem State.withdraw_anySelected (s : State) : (s.withdraw).anySelected = s.anySelected := rfl
@[simp] theorem State.withdraw_channelArray (s : State) : (s.withdraw).channelArray = s.channelArray := rfl
@[simp] theorem State.withdraw_exchanging (s : State) : (s.withdraw).exchanging = s.exchanging := rfl
@[simp] theorem State.withdraw_indicatorValue (s : State) : (s.withdraw).indicatorValue = s.indicatorValue := rfl
@[simp] theorem State.withdraw_selected (s : State) (i : Nat) : (s.withdraw).selected i = s.selected i := rfl
@[simp] theorem State.withdraw_lit (s : State) (i : Nat) : (s.withdraw).lit i = s.lit i := rfl
@[simp] theorem State.withdraw_posAt (s : State) (i : Nat) : (s.withdraw).posAt i = s.posAt i := rfl
@[simp] theorem State.withdraw_turnAt (s : State) (i : Nat) : (s.withdraw).turnAt i = s.turnAt i := rfl
@[simp] theorem State.withdraw_rawpAt (s : State) (i : Nat) : (s.withdraw).rawpAt i = s.rawpAt i := rfl
@[simp] theorem State.withdraw_rawtAt (s : State) (i : Nat) : (s.withdraw).rawtAt i = s.rawtAt i := rfl
@[simp] theorem State.withdraw_validAt (s : State) (i : Nat) : (s.withdraw).validAt i = s.validAt i := rfl
@[simp] theorem State.withdraw_publishedAt (s : State) (i : Nat) : (s.withdraw).publishedAt i = s.publishedAt i := rfl
@[simp] theorem State.withdraw_validity (s : State) (w : WordSel) : (s.withdraw).validity w = s.validity w := rfl
@[simp] theorem State.withdraw_word (s : State) (w : WordSel) : (s.withdraw).word w = s.word w := rfl
@[simp] theorem State.withdraw_byteAt (s : State) (w : WordSel) (k : ByteSel) : (s.withdraw).byteAt w k = s.byteAt w k := rfl

/-! ### `State.closeHandshake` -/

@[simp] theorem State.closeHandshake_cfg (s : State) : (s.closeHandshake).cfg = s.cfg := rfl
@[simp] theorem State.closeHandshake_rom (s : State) : (s.closeHandshake).rom = s.rom := rfl
@[simp] theorem State.closeHandshake_upc (s : State) : (s.closeHandshake).upc = s.upc := rfl
@[simp] theorem State.closeHandshake_upcCarry (s : State) : (s.closeHandshake).upcCarry = s.upcCarry := rfl
@[simp] theorem State.closeHandshake_phase (s : State) : (s.closeHandshake).phase = s.phase := rfl
@[simp] theorem State.closeHandshake_ch (s : State) : (s.closeHandshake).ch = s.ch := rfl
@[simp] theorem State.closeHandshake_cs (s : State) : (s.closeHandshake).cs = s.cs := rfl
@[simp] theorem State.closeHandshake_led (s : State) : (s.closeHandshake).led = s.led := rfl
@[simp] theorem State.closeHandshake_wbPosition (s : State) : (s.closeHandshake).wbPosition = s.wbPosition := rfl
@[simp] theorem State.closeHandshake_wbTurn (s : State) : (s.closeHandshake).wbTurn = s.wbTurn := rfl
@[simp] theorem State.closeHandshake_vPosition (s : State) : (s.closeHandshake).vPosition = s.vPosition := rfl
@[simp] theorem State.closeHandshake_vTurn (s : State) : (s.closeHandshake).vTurn = s.vTurn := rfl
@[simp] theorem State.closeHandshake_pos (s : State) : (s.closeHandshake).pos = s.pos := rfl
@[simp] theorem State.closeHandshake_turn (s : State) : (s.closeHandshake).turn = s.turn := rfl
@[simp] theorem State.closeHandshake_rawp (s : State) : (s.closeHandshake).rawp = s.rawp := rfl
@[simp] theorem State.closeHandshake_rawt (s : State) : (s.closeHandshake).rawt = s.rawt := rfl
@[simp] theorem State.closeHandshake_valid (s : State) : (s.closeHandshake).valid = s.valid := rfl
@[simp] theorem State.closeHandshake_sclk (s : State) : (s.closeHandshake).sclk = s.sclk := rfl
@[simp] theorem State.closeHandshake_mosi (s : State) : (s.closeHandshake).mosi = s.mosi := rfl
@[simp] theorem State.closeHandshake_miso (s : State) : (s.closeHandshake).miso = s.miso := rfl
@[simp] theorem State.closeHandshake_tx (s : State) : (s.closeHandshake).tx = s.tx := rfl
@[simp] theorem State.closeHandshake_rx (s : State) : (s.closeHandshake).rx = s.rx := rfl
@[simp] theorem State.closeHandshake_bitcnt (s : State) : (s.closeHandshake).bitcnt = s.bitcnt := rfl
@[simp] theorem State.closeHandshake_timer (s : State) : (s.closeHandshake).timer = s.timer := rfl
@[simp] theorem State.closeHandshake_pubReq (s : State) : (s.closeHandshake).pubReq = s.pubReq := rfl
@[simp] theorem State.closeHandshake_pubRelease (s : State) : (s.closeHandshake).pubRelease = false := rfl
@[simp] theorem State.closeHandshake_pubBuf (s : State) : (s.closeHandshake).pubBuf = s.pubBuf := rfl
@[simp] theorem State.closeHandshake_pubAck (s : State) : (s.closeHandshake).pubAck = s.pubAck := rfl
@[simp] theorem State.closeHandshake_fault (s : State) : (s.closeHandshake).fault = s.fault := rfl
@[simp] theorem State.closeHandshake_extraTicks (s : State) : (s.closeHandshake).extraTicks = s.extraTicks := rfl
@[simp] theorem State.closeHandshake_draws (s : State) : (s.closeHandshake).draws = s.draws := rfl
@[simp] theorem State.closeHandshake_channel (s : State) : (s.closeHandshake).channel = s.channel := rfl
@[simp] theorem State.closeHandshake_channelOk (s : State) : (s.closeHandshake).channelOk = s.channelOk := rfl
@[simp] theorem State.closeHandshake_anySelected (s : State) : (s.closeHandshake).anySelected = s.anySelected := rfl
@[simp] theorem State.closeHandshake_channelArray (s : State) : (s.closeHandshake).channelArray = s.channelArray := rfl
@[simp] theorem State.closeHandshake_exchanging (s : State) : (s.closeHandshake).exchanging = s.exchanging := rfl
@[simp] theorem State.closeHandshake_indicatorValue (s : State) : (s.closeHandshake).indicatorValue = s.indicatorValue := rfl
@[simp] theorem State.closeHandshake_selected (s : State) (i : Nat) : (s.closeHandshake).selected i = s.selected i := rfl
@[simp] theorem State.closeHandshake_lit (s : State) (i : Nat) : (s.closeHandshake).lit i = s.lit i := rfl
@[simp] theorem State.closeHandshake_posAt (s : State) (i : Nat) : (s.closeHandshake).posAt i = s.posAt i := rfl
@[simp] theorem State.closeHandshake_turnAt (s : State) (i : Nat) : (s.closeHandshake).turnAt i = s.turnAt i := rfl
@[simp] theorem State.closeHandshake_rawpAt (s : State) (i : Nat) : (s.closeHandshake).rawpAt i = s.rawpAt i := rfl
@[simp] theorem State.closeHandshake_rawtAt (s : State) (i : Nat) : (s.closeHandshake).rawtAt i = s.rawtAt i := rfl
@[simp] theorem State.closeHandshake_validAt (s : State) (i : Nat) : (s.closeHandshake).validAt i = s.validAt i := rfl
@[simp] theorem State.closeHandshake_publishedAt (s : State) (i : Nat) : (s.closeHandshake).publishedAt i = s.publishedAt i := rfl
@[simp] theorem State.closeHandshake_validity (s : State) (w : WordSel) : (s.closeHandshake).validity w = s.validity w := rfl
@[simp] theorem State.closeHandshake_word (s : State) (w : WordSel) : (s.closeHandshake).word w = s.word w := rfl
@[simp] theorem State.closeHandshake_byteAt (s : State) (w : WordSel) (k : ByteSel) : (s.closeHandshake).byteAt w k = s.byteAt w k := rfl

/-! ### `State.startCycling` -/

@[simp] theorem State.startCycling_cfg (s : State) : (s.startCycling).cfg = s.cfg := rfl
@[simp] theorem State.startCycling_rom (s : State) : (s.startCycling).rom = s.rom := rfl
@[simp] theorem State.startCycling_upc (s : State) : (s.startCycling).upc = s.upc := rfl
@[simp] theorem State.startCycling_upcCarry (s : State) : (s.startCycling).upcCarry = s.upcCarry := rfl
@[simp] theorem State.startCycling_phase (s : State) : (s.startCycling).phase = .cycling := rfl
@[simp] theorem State.startCycling_ch (s : State) : (s.startCycling).ch = s.ch := rfl
@[simp] theorem State.startCycling_cs (s : State) : (s.startCycling).cs = s.cs := rfl
@[simp] theorem State.startCycling_led (s : State) : (s.startCycling).led = s.led := rfl
@[simp] theorem State.startCycling_wbPosition (s : State) : (s.startCycling).wbPosition = s.wbPosition := rfl
@[simp] theorem State.startCycling_wbTurn (s : State) : (s.startCycling).wbTurn = s.wbTurn := rfl
@[simp] theorem State.startCycling_vPosition (s : State) : (s.startCycling).vPosition = s.vPosition := rfl
@[simp] theorem State.startCycling_vTurn (s : State) : (s.startCycling).vTurn = s.vTurn := rfl
@[simp] theorem State.startCycling_pos (s : State) : (s.startCycling).pos = s.pos := rfl
@[simp] theorem State.startCycling_turn (s : State) : (s.startCycling).turn = s.turn := rfl
@[simp] theorem State.startCycling_rawp (s : State) : (s.startCycling).rawp = s.rawp := rfl
@[simp] theorem State.startCycling_rawt (s : State) : (s.startCycling).rawt = s.rawt := rfl
@[simp] theorem State.startCycling_valid (s : State) : (s.startCycling).valid = s.valid := rfl
@[simp] theorem State.startCycling_sclk (s : State) : (s.startCycling).sclk = s.sclk := rfl
@[simp] theorem State.startCycling_mosi (s : State) : (s.startCycling).mosi = s.mosi := rfl
@[simp] theorem State.startCycling_miso (s : State) : (s.startCycling).miso = s.miso := rfl
@[simp] theorem State.startCycling_tx (s : State) : (s.startCycling).tx = s.tx := rfl
@[simp] theorem State.startCycling_rx (s : State) : (s.startCycling).rx = s.rx := rfl
@[simp] theorem State.startCycling_bitcnt (s : State) : (s.startCycling).bitcnt = s.bitcnt := rfl
@[simp] theorem State.startCycling_timer (s : State) : (s.startCycling).timer = s.timer := rfl
@[simp] theorem State.startCycling_pubReq (s : State) : (s.startCycling).pubReq = s.pubReq := rfl
@[simp] theorem State.startCycling_pubRelease (s : State) : (s.startCycling).pubRelease = s.pubRelease := rfl
@[simp] theorem State.startCycling_pubBuf (s : State) : (s.startCycling).pubBuf = s.pubBuf := rfl
@[simp] theorem State.startCycling_pubAck (s : State) : (s.startCycling).pubAck = s.pubAck := rfl
@[simp] theorem State.startCycling_fault (s : State) : (s.startCycling).fault = s.fault := rfl
@[simp] theorem State.startCycling_extraTicks (s : State) : (s.startCycling).extraTicks = s.extraTicks := rfl
@[simp] theorem State.startCycling_draws (s : State) : (s.startCycling).draws = s.draws := rfl
@[simp] theorem State.startCycling_channel (s : State) : (s.startCycling).channel = s.channel := rfl
@[simp] theorem State.startCycling_channelOk (s : State) : (s.startCycling).channelOk = s.channelOk := rfl
@[simp] theorem State.startCycling_anySelected (s : State) : (s.startCycling).anySelected = s.anySelected := rfl
@[simp] theorem State.startCycling_channelArray (s : State) : (s.startCycling).channelArray = s.channelArray := rfl
@[simp] theorem State.startCycling_exchanging (s : State) : (s.startCycling).exchanging = s.exchanging := rfl
@[simp] theorem State.startCycling_indicatorValue (s : State) : (s.startCycling).indicatorValue = s.indicatorValue := rfl
@[simp] theorem State.startCycling_selected (s : State) (i : Nat) : (s.startCycling).selected i = s.selected i := rfl
@[simp] theorem State.startCycling_lit (s : State) (i : Nat) : (s.startCycling).lit i = s.lit i := rfl
@[simp] theorem State.startCycling_posAt (s : State) (i : Nat) : (s.startCycling).posAt i = s.posAt i := rfl
@[simp] theorem State.startCycling_turnAt (s : State) (i : Nat) : (s.startCycling).turnAt i = s.turnAt i := rfl
@[simp] theorem State.startCycling_rawpAt (s : State) (i : Nat) : (s.startCycling).rawpAt i = s.rawpAt i := rfl
@[simp] theorem State.startCycling_rawtAt (s : State) (i : Nat) : (s.startCycling).rawtAt i = s.rawtAt i := rfl
@[simp] theorem State.startCycling_validAt (s : State) (i : Nat) : (s.startCycling).validAt i = s.validAt i := rfl
@[simp] theorem State.startCycling_publishedAt (s : State) (i : Nat) : (s.startCycling).publishedAt i = s.publishedAt i := rfl
@[simp] theorem State.startCycling_validity (s : State) (w : WordSel) : (s.startCycling).validity w = s.validity w := rfl
@[simp] theorem State.startCycling_word (s : State) (w : WordSel) : (s.startCycling).word w = s.word w := rfl
@[simp] theorem State.startCycling_byteAt (s : State) (w : WordSel) (k : ByteSel) : (s.startCycling).byteAt w k = s.byteAt w k := rfl

/-! ### `State.drive` -/

@[simp] theorem State.drive_cfg (s : State) (inp : Inputs) : (s.drive inp).cfg = s.cfg := rfl
@[simp] theorem State.drive_rom (s : State) (inp : Inputs) : (s.drive inp).rom = s.rom := rfl
@[simp] theorem State.drive_upc (s : State) (inp : Inputs) : (s.drive inp).upc = s.upc := rfl
@[simp] theorem State.drive_upcCarry (s : State) (inp : Inputs) : (s.drive inp).upcCarry = s.upcCarry := rfl
@[simp] theorem State.drive_phase (s : State) (inp : Inputs) : (s.drive inp).phase = s.phase := rfl
@[simp] theorem State.drive_ch (s : State) (inp : Inputs) : (s.drive inp).ch = s.ch := rfl
@[simp] theorem State.drive_cs (s : State) (inp : Inputs) : (s.drive inp).cs = s.cs := rfl
@[simp] theorem State.drive_led (s : State) (inp : Inputs) : (s.drive inp).led = s.led := rfl
@[simp] theorem State.drive_wbPosition (s : State) (inp : Inputs) : (s.drive inp).wbPosition = s.wbPosition := rfl
@[simp] theorem State.drive_wbTurn (s : State) (inp : Inputs) : (s.drive inp).wbTurn = s.wbTurn := rfl
@[simp] theorem State.drive_vPosition (s : State) (inp : Inputs) : (s.drive inp).vPosition = s.vPosition := rfl
@[simp] theorem State.drive_vTurn (s : State) (inp : Inputs) : (s.drive inp).vTurn = s.vTurn := rfl
@[simp] theorem State.drive_pos (s : State) (inp : Inputs) : (s.drive inp).pos = s.pos := rfl
@[simp] theorem State.drive_turn (s : State) (inp : Inputs) : (s.drive inp).turn = s.turn := rfl
@[simp] theorem State.drive_rawp (s : State) (inp : Inputs) : (s.drive inp).rawp = s.rawp := rfl
@[simp] theorem State.drive_rawt (s : State) (inp : Inputs) : (s.drive inp).rawt = s.rawt := rfl
@[simp] theorem State.drive_valid (s : State) (inp : Inputs) : (s.drive inp).valid = s.valid := rfl
@[simp] theorem State.drive_sclk (s : State) (inp : Inputs) : (s.drive inp).sclk = s.sclk := rfl
@[simp] theorem State.drive_mosi (s : State) (inp : Inputs) : (s.drive inp).mosi = (if s.exchanging then s.mosi else inp.mosiIdle) := rfl
@[simp] theorem State.drive_miso (s : State) (inp : Inputs) : (s.drive inp).miso = inp.miso := rfl
@[simp] theorem State.drive_tx (s : State) (inp : Inputs) : (s.drive inp).tx = s.tx := rfl
@[simp] theorem State.drive_rx (s : State) (inp : Inputs) : (s.drive inp).rx = s.rx := rfl
@[simp] theorem State.drive_bitcnt (s : State) (inp : Inputs) : (s.drive inp).bitcnt = s.bitcnt := rfl
@[simp] theorem State.drive_timer (s : State) (inp : Inputs) : (s.drive inp).timer = s.timer := rfl
@[simp] theorem State.drive_pubReq (s : State) (inp : Inputs) : (s.drive inp).pubReq = s.pubReq := rfl
@[simp] theorem State.drive_pubRelease (s : State) (inp : Inputs) : (s.drive inp).pubRelease = s.pubRelease := rfl
@[simp] theorem State.drive_pubBuf (s : State) (inp : Inputs) : (s.drive inp).pubBuf = s.pubBuf := rfl
@[simp] theorem State.drive_pubAck (s : State) (inp : Inputs) : (s.drive inp).pubAck = (inp.pubAck && (s.pubReq || s.pubAck)) := rfl
@[simp] theorem State.drive_fault (s : State) (inp : Inputs) : (s.drive inp).fault = s.fault := rfl
@[simp] theorem State.drive_extraTicks (s : State) (inp : Inputs) : (s.drive inp).extraTicks = inp.extraTicks := rfl
@[simp] theorem State.drive_draws (s : State) (inp : Inputs) : (s.drive inp).draws = s.draws := rfl
@[simp] theorem State.drive_channel (s : State) (inp : Inputs) : (s.drive inp).channel = s.channel := rfl
@[simp] theorem State.drive_channelOk (s : State) (inp : Inputs) : (s.drive inp).channelOk = s.channelOk := rfl
@[simp] theorem State.drive_anySelected (s : State) (inp : Inputs) : (s.drive inp).anySelected = s.anySelected := rfl
@[simp] theorem State.drive_channelArray (s : State) (inp : Inputs) : (s.drive inp).channelArray = s.channelArray := rfl
@[simp] theorem State.drive_exchanging (s : State) (inp : Inputs) : (s.drive inp).exchanging = s.exchanging := rfl
@[simp] theorem State.drive_indicatorValue (s : State) (inp : Inputs) : (s.drive inp).indicatorValue = s.indicatorValue := rfl
@[simp] theorem State.drive_selected (s : State) (inp : Inputs) (i : Nat) : (s.drive inp).selected i = s.selected i := rfl
@[simp] theorem State.drive_lit (s : State) (inp : Inputs) (i : Nat) : (s.drive inp).lit i = s.lit i := rfl
@[simp] theorem State.drive_posAt (s : State) (inp : Inputs) (i : Nat) : (s.drive inp).posAt i = s.posAt i := rfl
@[simp] theorem State.drive_turnAt (s : State) (inp : Inputs) (i : Nat) : (s.drive inp).turnAt i = s.turnAt i := rfl
@[simp] theorem State.drive_rawpAt (s : State) (inp : Inputs) (i : Nat) : (s.drive inp).rawpAt i = s.rawpAt i := rfl
@[simp] theorem State.drive_rawtAt (s : State) (inp : Inputs) (i : Nat) : (s.drive inp).rawtAt i = s.rawtAt i := rfl
@[simp] theorem State.drive_validAt (s : State) (inp : Inputs) (i : Nat) : (s.drive inp).validAt i = s.validAt i := rfl
@[simp] theorem State.drive_publishedAt (s : State) (inp : Inputs) (i : Nat) : (s.drive inp).publishedAt i = s.publishedAt i := rfl
@[simp] theorem State.drive_validity (s : State) (inp : Inputs) (w : WordSel) : (s.drive inp).validity w = s.validity w := rfl
@[simp] theorem State.drive_word (s : State) (inp : Inputs) (w : WordSel) : (s.drive inp).word w = s.word w := rfl
@[simp] theorem State.drive_byteAt (s : State) (inp : Inputs) (w : WordSel) (k : ByteSel) : (s.drive inp).byteAt w k = s.byteAt w k := rfl

/-! ### `State.environment` -/

@[simp] theorem State.environment_cfg (s : State) : (s.environment).cfg = s.cfg := rfl
@[simp] theorem State.environment_rom (s : State) : (s.environment).rom = s.rom := rfl
@[simp] theorem State.environment_upc (s : State) : (s.environment).upc = s.upc := rfl
@[simp] theorem State.environment_upcCarry (s : State) : (s.environment).upcCarry = s.upcCarry := rfl
@[simp] theorem State.environment_phase (s : State) : (s.environment).phase = s.phase := rfl
@[simp] theorem State.environment_ch (s : State) : (s.environment).ch = s.ch := rfl
@[simp] theorem State.environment_cs (s : State) : (s.environment).cs = s.cs := rfl
@[simp] theorem State.environment_led (s : State) : (s.environment).led = s.led := rfl
@[simp] theorem State.environment_wbPosition (s : State) : (s.environment).wbPosition = s.wbPosition := rfl
@[simp] theorem State.environment_wbTurn (s : State) : (s.environment).wbTurn = s.wbTurn := rfl
@[simp] theorem State.environment_vPosition (s : State) : (s.environment).vPosition = s.vPosition := rfl
@[simp] theorem State.environment_vTurn (s : State) : (s.environment).vTurn = s.vTurn := rfl
@[simp] theorem State.environment_pos (s : State) : (s.environment).pos = s.pos := rfl
@[simp] theorem State.environment_turn (s : State) : (s.environment).turn = s.turn := rfl
@[simp] theorem State.environment_rawp (s : State) : (s.environment).rawp = s.rawp := rfl
@[simp] theorem State.environment_rawt (s : State) : (s.environment).rawt = s.rawt := rfl
@[simp] theorem State.environment_valid (s : State) : (s.environment).valid = s.valid := rfl
@[simp] theorem State.environment_sclk (s : State) : (s.environment).sclk = s.sclk := rfl
@[simp] theorem State.environment_mosi (s : State) : (s.environment).mosi = (if s.exchanging then s.mosi else (Config.freeInputs s.draws).mosiIdle) := rfl
@[simp] theorem State.environment_miso (s : State) : (s.environment).miso = (Config.freeInputs s.draws).miso := rfl
@[simp] theorem State.environment_tx (s : State) : (s.environment).tx = s.tx := rfl
@[simp] theorem State.environment_rx (s : State) : (s.environment).rx = s.rx := rfl
@[simp] theorem State.environment_bitcnt (s : State) : (s.environment).bitcnt = s.bitcnt := rfl
@[simp] theorem State.environment_timer (s : State) : (s.environment).timer = s.timer := rfl
@[simp] theorem State.environment_pubReq (s : State) : (s.environment).pubReq = s.pubReq := rfl
@[simp] theorem State.environment_pubRelease (s : State) : (s.environment).pubRelease = s.pubRelease := rfl
@[simp] theorem State.environment_pubBuf (s : State) : (s.environment).pubBuf = s.pubBuf := rfl
@[simp] theorem State.environment_pubAck (s : State) : (s.environment).pubAck = ((Config.freeInputs s.draws).pubAck && (s.pubReq || s.pubAck)) := rfl
@[simp] theorem State.environment_fault (s : State) : (s.environment).fault = s.fault := rfl
@[simp] theorem State.environment_extraTicks (s : State) : (s.environment).extraTicks = (Config.freeInputs s.draws).extraTicks := rfl
@[simp] theorem State.environment_draws (s : State) : (s.environment).draws = s.draws + 1 := rfl
@[simp] theorem State.environment_channel (s : State) : (s.environment).channel = s.channel := rfl
@[simp] theorem State.environment_channelOk (s : State) : (s.environment).channelOk = s.channelOk := rfl
@[simp] theorem State.environment_anySelected (s : State) : (s.environment).anySelected = s.anySelected := rfl
@[simp] theorem State.environment_channelArray (s : State) : (s.environment).channelArray = s.channelArray := rfl
@[simp] theorem State.environment_exchanging (s : State) : (s.environment).exchanging = s.exchanging := rfl
@[simp] theorem State.environment_indicatorValue (s : State) : (s.environment).indicatorValue = s.indicatorValue := rfl
@[simp] theorem State.environment_selected (s : State) (i : Nat) : (s.environment).selected i = s.selected i := rfl
@[simp] theorem State.environment_lit (s : State) (i : Nat) : (s.environment).lit i = s.lit i := rfl
@[simp] theorem State.environment_posAt (s : State) (i : Nat) : (s.environment).posAt i = s.posAt i := rfl
@[simp] theorem State.environment_turnAt (s : State) (i : Nat) : (s.environment).turnAt i = s.turnAt i := rfl
@[simp] theorem State.environment_rawpAt (s : State) (i : Nat) : (s.environment).rawpAt i = s.rawpAt i := rfl
@[simp] theorem State.environment_rawtAt (s : State) (i : Nat) : (s.environment).rawtAt i = s.rawtAt i := rfl
@[simp] theorem State.environment_validAt (s : State) (i : Nat) : (s.environment).validAt i = s.validAt i := rfl
@[simp] theorem State.environment_publishedAt (s : State) (i : Nat) : (s.environment).publishedAt i = s.publishedAt i := rfl
@[simp] theorem State.environment_validity (s : State) (w : WordSel) : (s.environment).validity w = s.validity w := rfl
@[simp] theorem State.environment_word (s : State) (w : WordSel) : (s.environment).word w = s.word w := rfl
@[simp] theorem State.environment_byteAt (s : State) (w : WordSel) (k : ByteSel) : (s.environment).byteAt w k = s.byteAt w k := rfl

/-! ### `State.placeNext` -/

@[simp] theorem State.placeNext_cfg (s : State) (u : Word) : (s.placeNext u).cfg = s.cfg := rfl
@[simp] theorem State.placeNext_rom (s : State) (u : Word) : (s.placeNext u).rom = placeWord s.rom s.upc.toNat u := rfl
@[simp] theorem State.placeNext_upc (s : State) (u : Word) : (s.placeNext u).upc = s.upc := rfl
@[simp] theorem State.placeNext_upcCarry (s : State) (u : Word) : (s.placeNext u).upcCarry = false := rfl
@[simp] theorem State.placeNext_phase (s : State) (u : Word) : (s.placeNext u).phase = s.phase := rfl
@[simp] theorem State.placeNext_ch (s : State) (u : Word) : (s.placeNext u).ch = s.ch := rfl
@[simp] theorem State.placeNext_cs (s : State) (u : Word) : (s.placeNext u).cs = s.cs := rfl
@[simp] theorem State.placeNext_led (s : State) (u : Word) : (s.placeNext u).led = s.led := rfl
@[simp] theorem State.placeNext_wbPosition (s : State) (u : Word) : (s.placeNext u).wbPosition = s.wbPosition := rfl
@[simp] theorem State.placeNext_wbTurn (s : State) (u : Word) : (s.placeNext u).wbTurn = s.wbTurn := rfl
@[simp] theorem State.placeNext_vPosition (s : State) (u : Word) : (s.placeNext u).vPosition = s.vPosition := rfl
@[simp] theorem State.placeNext_vTurn (s : State) (u : Word) : (s.placeNext u).vTurn = s.vTurn := rfl
@[simp] theorem State.placeNext_pos (s : State) (u : Word) : (s.placeNext u).pos = s.pos := rfl
@[simp] theorem State.placeNext_turn (s : State) (u : Word) : (s.placeNext u).turn = s.turn := rfl
@[simp] theorem State.placeNext_rawp (s : State) (u : Word) : (s.placeNext u).rawp = s.rawp := rfl
@[simp] theorem State.placeNext_rawt (s : State) (u : Word) : (s.placeNext u).rawt = s.rawt := rfl
@[simp] theorem State.placeNext_valid (s : State) (u : Word) : (s.placeNext u).valid = s.valid := rfl
@[simp] theorem State.placeNext_sclk (s : State) (u : Word) : (s.placeNext u).sclk = s.sclk := rfl
@[simp] theorem State.placeNext_mosi (s : State) (u : Word) : (s.placeNext u).mosi = s.mosi := rfl
@[simp] theorem State.placeNext_miso (s : State) (u : Word) : (s.placeNext u).miso = s.miso := rfl
@[simp] theorem State.placeNext_tx (s : State) (u : Word) : (s.placeNext u).tx = s.tx := rfl
@[simp] theorem State.placeNext_rx (s : State) (u : Word) : (s.placeNext u).rx = s.rx := rfl
@[simp] theorem State.placeNext_bitcnt (s : State) (u : Word) : (s.placeNext u).bitcnt = s.bitcnt := rfl
@[simp] theorem State.placeNext_timer (s : State) (u : Word) : (s.placeNext u).timer = s.timer := rfl
@[simp] theorem State.placeNext_pubReq (s : State) (u : Word) : (s.placeNext u).pubReq = s.pubReq := rfl
@[simp] theorem State.placeNext_pubRelease (s : State) (u : Word) : (s.placeNext u).pubRelease = s.pubRelease := rfl
@[simp] theorem State.placeNext_pubBuf (s : State) (u : Word) : (s.placeNext u).pubBuf = s.pubBuf := rfl
@[simp] theorem State.placeNext_pubAck (s : State) (u : Word) : (s.placeNext u).pubAck = s.pubAck := rfl
@[simp] theorem State.placeNext_fault (s : State) (u : Word) : (s.placeNext u).fault = s.fault := rfl
@[simp] theorem State.placeNext_extraTicks (s : State) (u : Word) : (s.placeNext u).extraTicks = s.extraTicks := rfl
@[simp] theorem State.placeNext_draws (s : State) (u : Word) : (s.placeNext u).draws = s.draws := rfl
@[simp] theorem State.placeNext_channel (s : State) (u : Word) : (s.placeNext u).channel = s.channel := rfl
@[simp] theorem State.placeNext_channelOk (s : State) (u : Word) : (s.placeNext u).channelOk = s.channelOk := rfl
@[simp] theorem State.placeNext_anySelected (s : State) (u : Word) : (s.placeNext u).anySelected = s.anySelected := rfl
@[simp] theorem State.placeNext_channelArray (s : State) (u : Word) : (s.placeNext u).channelArray = s.channelArray := rfl
@[simp] theorem State.placeNext_exchanging (s : State) (u : Word) : (s.placeNext u).exchanging = s.exchanging := rfl
@[simp] theorem State.placeNext_indicatorValue (s : State) (u : Word) : (s.placeNext u).indicatorValue = s.indicatorValue := rfl
@[simp] theorem State.placeNext_selected (s : State) (u : Word) (i : Nat) : (s.placeNext u).selected i = s.selected i := rfl
@[simp] theorem State.placeNext_lit (s : State) (u : Word) (i : Nat) : (s.placeNext u).lit i = s.lit i := rfl
@[simp] theorem State.placeNext_posAt (s : State) (u : Word) (i : Nat) : (s.placeNext u).posAt i = s.posAt i := rfl
@[simp] theorem State.placeNext_turnAt (s : State) (u : Word) (i : Nat) : (s.placeNext u).turnAt i = s.turnAt i := rfl
@[simp] theorem State.placeNext_rawpAt (s : State) (u : Word) (i : Nat) : (s.placeNext u).rawpAt i = s.rawpAt i := rfl
@[simp] theorem State.placeNext_rawtAt (s : State) (u : Word) (i : Nat) : (s.placeNext u).rawtAt i = s.rawtAt i := rfl
@[simp] theorem State.placeNext_validAt (s : State) (u : Word) (i : Nat) : (s.placeNext u).validAt i = s.validAt i := rfl
@[simp] theorem State.placeNext_publishedAt (s : State) (u : Word) (i : Nat) : (s.placeNext u).publishedAt i = s.publishedAt i := rfl
@[simp] theorem State.placeNext_validity (s : State) (u : Word) (w : WordSel) : (s.placeNext u).validity w = s.validity w := rfl
@[simp] theorem State.placeNext_word (s : State) (u : Word) (w : WordSel) : (s.placeNext u).word w = s.word w := rfl
@[simp] theorem State.placeNext_byteAt (s : State) (u : Word) (w : WordSel) (k : ByteSel) : (s.placeNext u).byteAt w k = s.byteAt w k := rfl

end Sys2Proof.Machine
end

