-- ==== Sys2Proof/Laws/Ops.lean ====
section
/-!
SUPPORT. What each shared operation does, once: reading back what it wrote, what it leaves alone, and the fields it writes.
-/

namespace Sys2Proof.Machine

open Sys2Proof

/-! ### Fault sets -/

theorem FaultSet.has_insert (f : FaultSet) (c d : FaultCode) :
    (f.insert c).has d = (f.has d || decide (d = c)) := by
  cases c <;> cases d <;> simp [FaultSet.insert, FaultSet.has]

theorem FaultSet.has_none (c : FaultCode) : FaultSet.none.has c = false := by cases c <;> rfl

theorem FaultSet.insert_ne_none (f : FaultSet) (c : FaultCode) : f.insert c ≠ FaultSet.none := by
  cases c <;> simp [FaultSet.insert, FaultSet.none]

theorem State.raise_fault_ne_none (s : State) (c : FaultCode) : (s.raise c).fault ≠ FaultSet.none :=
  FaultSet.insert_ne_none s.fault c

/-! ### Channel arrays -/

theorem State.channelOk_iff (s : State) : s.channelOk = true ↔ s.ch.toNat < s.cfg.n := by
  simp [State.channelOk, State.channel]

theorem State.channelOk_eq_false_iff (s : State) : s.channelOk = false ↔ s.cfg.n ≤ s.ch.toNat := by
  rw [← Bool.not_eq_true, State.channelOk_iff, Nat.not_lt]

theorem State.anySelected_iff (s : State) : s.anySelected = true ↔ ∃ i < s.cfg.n, s.selected i = true := by
  simp [State.anySelected]

theorem State.selected_putCs_self (s : State) (i : Nat) (b : Bool) (h : i < s.cs.length) :
    (s.putCs i b).selected i = b := by
  simp [State.selected, h]

theorem State.selected_putCs_false (s : State) (i : Nat) : (s.putCs i false).selected i = false := by
  by_cases h : i < s.cs.length
  · exact s.selected_putCs_self i false h
  · simp [State.selected, h]

theorem State.selected_putCs_ne (s : State) (i j : Nat) (b : Bool) (h : j ≠ i) :
    (s.putCs i b).selected j = s.selected j := by
  simp [State.selected, List.getElem?_set_ne (Ne.symm h)]

theorem State.lt_length_of_selected (s : State) (i : Nat) (h : s.selected i = true) : i < s.cs.length := by
  by_contra hn
  simp [State.selected, Nat.not_lt.1 hn] at h

theorem State.lit_putIndicator_self (s : State) (i : Nat) (b : Bool) (h : i < s.led.length) :
    (s.putIndicator i b).lit i = b := by
  simp [State.lit, h]

theorem State.lit_putIndicator_ne (s : State) (i j : Nat) (b : Bool) (h : j ≠ i) :
    (s.putIndicator i b).lit j = s.lit j := by
  simp [State.lit, List.getElem?_set_ne (Ne.symm h)]

theorem State.validAt_putIndicator_self (s : State) (i : Nat) (b : Bool) (h : i < s.valid.length) :
    (s.putIndicator i b).validAt i = some b := by
  simp [State.validAt, h]

theorem State.validAt_putIndicator_ne (s : State) (i j : Nat) (b : Bool) (h : j ≠ i) :
    (s.putIndicator i b).validAt j = s.validAt j := by
  simp [State.validAt, List.getElem?_set_ne (Ne.symm h)]

theorem State.putReading_position (s : State) (i : Nat) (r x : Word) :
    s.putReading .position i r x = { s with pos := s.pos.set i (some r), rawp := s.rawp.set i (some x) } := rfl

theorem State.putReading_turnWord (s : State) (i : Nat) (r x : Word) :
    s.putReading .turn i r x = { s with turn := s.turn.set i (some r), rawt := s.rawt.set i (some x) } := rfl

theorem List.getD_set_self_of_lt {α : Type} (l : List α) (i : Nat) (a d : α) (h : i < l.length) :
    (l.set i a).getD i d = a := by
  simp [h]

theorem List.getD_set_of_ne {α : Type} (l : List α) (i j : Nat) (a d : α) (h : j ≠ i) :
    (l.set i a).getD j d = l.getD j d := by
  simp [List.getElem?_set_ne (Ne.symm h)]

theorem State.readingsAt_putReading_ne (s : State) (w : WordSel) (i j : Nat) (r x : Word) (h : j ≠ i) :
    (s.putReading w i r x).posAt j = s.posAt j ∧ (s.putReading w i r x).rawpAt j = s.rawpAt j
      ∧ (s.putReading w i r x).turnAt j = s.turnAt j ∧ (s.putReading w i r x).rawtAt j = s.rawtAt j := by
  cases w
  · exact ⟨List.getD_set_of_ne _ _ _ _ _ h, List.getD_set_of_ne _ _ _ _ _ h, rfl, rfl⟩
  · exact ⟨rfl, rfl, List.getD_set_of_ne _ _ _ _ _ h, List.getD_set_of_ne _ _ _ _ _ h⟩

theorem State.channelArray_written_iff (s : State) :
    s.channelArray.any Option.isNone = true ↔ ∃ i < s.cfg.n, s.posAt i = none := by
  simp [State.channelArray]

theorem State.getD_channelArray (s : State) (i : Nat) (h : i < s.cfg.n) : s.channelArray.getD i none = s.posAt i := by
  simp [State.channelArray, h]

/-! ### Byte cells and flags -/

theorem State.byteAt_putByte (s : State) (w w' : WordSel) (k k' : ByteSel) (b : Byte) :
    (s.putByte w k b).byteAt w' k' = if w' = w ∧ k' = k then some b else s.byteAt w' k' := by
  cases w <;> cases k <;> cases w' <;> cases k' <;> rfl

theorem State.validity_putValidity (s : State) (w w' : WordSel) (b : Bool) :
    (s.putValidity w b).validity w' = if w' = w then some b else s.validity w' := by
  cases w <;> cases w' <;> rfl

theorem State.word_eq_some_iff (s : State) (w : WordSel) (x : Word) :
    s.word w = some x ↔ ∃ b1 b0, s.byteAt w .hi = some b1 ∧ s.byteAt w .lo = some b0 ∧ x = b1 ++ b0 := by
  unfold State.word
  cases s.byteAt w .hi <;> cases s.byteAt w .lo <;> simp [eq_comm]

theorem State.word_eq_none_iff (s : State) (w : WordSel) :
    s.word w = none ↔ s.byteAt w .hi = none ∨ s.byteAt w .lo = none := by
  unfold State.word
  cases s.byteAt w .hi <;> cases s.byteAt w .lo <;> simp

theorem turnForbidden_iff (cfg : Config) (w : WordSel) :
    turnForbidden cfg w = true ↔ w = .turn ∧ cfg.mode = .singleTurn := by
  cases w <;> simp [turnForbidden]

theorem turnForbidden_eq_false_iff (cfg : Config) (w : WordSel) :
    turnForbidden cfg w = false ↔ w = .position ∨ cfg.mode = .multiTurn := by
  cases w <;> cases h : cfg.mode <;> simp [turnForbidden, h]

/-! ### The shifter -/

theorem getLsbD_setBit (v : Byte) (i j : Nat) (b : Bool) (hi : i < 8) (hj : j < 8) :
    (setBit v i b).getLsbD j = if j = i then b else v.getLsbD j := by
  revert v b
  interval_cases i <;> interval_cases j <;> decide

theorem State.exchanging_clockRise (s : State) (x : Byte) (i : Nat) : (s.clockRise x i).exchanging = true := by
  simp [State.exchanging]

theorem State.exchanging_of_sclk (s : State) (h : s.sclk = true) : s.exchanging = true := by
  simp [State.exchanging, h]

theorem State.exchanging_clockFall (s : State) (h : s.bitcnt < 7) : s.clockFall.exchanging = true := by
  simp [State.exchanging]; omega

/-! ### The timer -/

theorem waitTicks_le_loadTicks (cfg : Config) (d : Delay) (extra : Nat) : waitTicks cfg d ≤ loadTicks cfg d extra :=
  Nat.le_add_right _ _

theorem loadTicks_lt (cfg : Config) (d : Delay) (extra : Nat) (h : waitTicks cfg d < 2 ^ cfg.timerWidth) :
    loadTicks cfg d extra < 2 ^ cfg.timerWidth := by
  unfold loadTicks; omega

/-! ### Placing a word for the next fetch -/

theorem placeWord_get (rom : List Word) (a : Nat) (u : Word) : (placeWord rom a u)[a]? = some u := by
  induction a generalizing rom with
  | zero => cases rom <;> rfl
  | succ a ih => cases rom <;> simpa [placeWord] using ih _

theorem placeWord_get_ne (rom : List Word) (a b : Nat) (u : Word) (h : b ≠ a) (hb : b < rom.length) :
    (placeWord rom a u)[b]? = rom[b]? := by
  induction a generalizing rom b with
  | zero =>
    cases rom with
    | nil => simp at hb
    | cons v rest => cases b with
      | zero => exact absurd rfl h
      | succ b => rfl
  | succ a ih =>
    cases rom with
    | nil => simp at hb
    | cons v rest => cases b with
      | zero => rfl
      | succ b => simpa [placeWord] using ih rest b (by omega) (by simpa using hb)

/-! ### Frames of the named updates -/

theorem OnlyWrites.refl (fs : List Field) (s : State) : OnlyWrites fs s s := by
  intro f _; cases f <;> rfl

theorem OnlyWrites.trans {fs gs : List Field} {s t u : State} (h : OnlyWrites fs s t) (h' : OnlyWrites gs t u) :
    OnlyWrites (fs ++ gs) s u := by
  intro f hf
  have h1 := h f (fun m => hf (List.mem_append_left _ m))
  have h2 := h' f (fun m => hf (List.mem_append_right _ m))
  cases f <;> exact Eq.trans h2 h1

theorem OnlyWrites.mono {fs gs : List Field} {s t : State} (h : OnlyWrites fs s t) (sub : ∀ f ∈ fs, f ∈ gs) :
    OnlyWrites gs s t := fun f hf => h f (fun m => hf (sub f m))

theorem raise_frame (s : State) (c : FaultCode) : OnlyWrites [.fault] s (s.raise c) := by
  intro f hf; cases f <;> first | rfl | exact absurd (by decide) hf

theorem advance_frame (s : State) : OnlyWrites [.upc, .upcCarry] s s.advance := by
  intro f hf; cases f <;> first | rfl | exact absurd (by decide) hf

theorem jump_frame (s : State) (a : Addr) : OnlyWrites [.upc, .upcCarry] s (s.jump a) := by
  intro f hf; cases f <;> first | rfl | exact absurd (by decide) hf

theorem putCs_frame (s : State) (i : Nat) (b : Bool) : OnlyWrites [.cs] s (s.putCs i b) := by
  intro f hf; cases f <;> first | rfl | exact absurd (by decide) hf

theorem putIndicator_frame (s : State) (i : Nat) (b : Bool) : OnlyWrites [.led, .valid] s (s.putIndicator i b) := by
  intro f hf; cases f <;> first | rfl | exact absurd (by decide) hf

theorem putByte_frame (s : State) (w : WordSel) (k : ByteSel) (b : Byte) :
    OnlyWrites [match w with | .position => .wbPosition | .turn => .wbTurn] s (s.putByte w k b) := by
  intro f hf; cases w <;> cases k <;> cases f <;> first | rfl | exact absurd (by decide) hf

theorem putValidity_frame (s : State) (w : WordSel) (b : Bool) :
    OnlyWrites [match w with | .position => .vPosition | .turn => .vTurn] s (s.putValidity w b) := by
  intro f hf; cases w <;> cases f <;> first | rfl | exact absurd (by decide) hf

theorem putReading_frame (s : State) (w : WordSel) (i : Nat) (r x : Word) :
    OnlyWrites (match w with | .position => [.pos, .rawp] | .turn => [.turn, .rawt]) s (s.putReading w i r x) := by
  intro f hf; cases w <;> cases f <;> first | rfl | exact absurd (by decide) hf

theorem putChannel_frame (s : State) (n : Byte) : OnlyWrites [.ch] s (s.putChannel n) := by
  intro f hf; cases f <;> first | rfl | exact absurd (by decide) hf

theorem clockRise_frame (s : State) (x : Byte) (i : Nat) :
    OnlyWrites [.tx, .bitcnt, .mosi, .sclk, .rx] s (s.clockRise x i) := by
  intro f hf; cases f <;> first | rfl | exact absurd (by decide) hf

theorem clockFall_frame (s : State) : OnlyWrites [.sclk, .bitcnt] s s.clockFall := by
  intro f hf; cases f <;> first | rfl | exact absurd (by decide) hf

theorem putTimer_frame (s : State) (n : Nat) : OnlyWrites [.timer] s (s.putTimer n) := by
  intro f hf; cases f <;> first | rfl | exact absurd (by decide) hf

theorem publish_frame (s : State) (a : List (Option Word)) : OnlyWrites [.pubBuf, .pubReq] s (s.publish a) := by
  intro f hf; cases f <;> first | rfl | exact absurd (by decide) hf

theorem withdraw_frame (s : State) : OnlyWrites [.pubReq, .pubRelease] s s.withdraw := by
  intro f hf; cases f <;> first | rfl | exact absurd (by decide) hf

theorem closeHandshake_frame (s : State) : OnlyWrites [.pubRelease] s s.closeHandshake := by
  intro f hf; cases f <;> first | rfl | exact absurd (by decide) hf

theorem startCycling_frame (s : State) : OnlyWrites [.phase] s s.startCycling := by
  intro f hf; cases f <;> first | rfl | exact absurd (by decide) hf

end Sys2Proof.Machine
end

