-- ==== Sys2Proof/Laws/Meanings.lean ====
section
/-!
SUPPORT. For each micro-op, everything it can do: if it answers `t`, one of the listed cases holds. Proofs over micro-ops cite these
instead of unfolding a meaning.
-/

namespace Sys2Proof.Machine

open Sys2Proof

variable {s t : State}

theorem exec_csa_cases (h : exec .csa s = .next t) :
    (s.channelOk = false ∧ t = s.raise .chRange)
      ∨ (s.channelOk = true ∧ s.anySelected = true ∧ t = s.raise .csConflict)
      ∨ (s.channelOk = true ∧ s.anySelected = false ∧ t = (s.putCs s.channel true).advance) := by
  simp only [exec, execCsa, Host.Outcome.next.injEq] at h
  subst h
  cases s.channelOk <;> cases s.anySelected <;> simp

theorem exec_csd_cases (h : exec .csd s = .next t) :
    (s.channelOk = false ∧ t = s.raise .chRange)
      ∨ (s.channelOk = true ∧ s.selected s.channel = false ∧ t = s.raise .csNotSelected)
      ∨ (s.channelOk = true ∧ s.selected s.channel = true ∧ t = (s.putCs s.channel false).advance) := by
  simp only [exec, execCsd, Host.Outcome.next.injEq] at h
  subst h
  cases s.channelOk <;> cases s.selected s.channel <;> simp

theorem exec_wait_cases {d : Delay} (h : exec (.wait d) s = .next t) :
    ((if s.timer = 0 then loadTicks s.cfg d s.extraTicks else s.timer - 1) = 0 ∧ t = (s.putTimer 0).advance)
      ∨ ((if s.timer = 0 then loadTicks s.cfg d s.extraTicks else s.timer - 1) ≠ 0
        ∧ t = s.putTimer (if s.timer = 0 then loadTicks s.cfg d s.extraTicks else s.timer - 1)) := by
  simp only [exec, execWait, Host.Outcome.next.injEq] at h
  by_cases hz : (if s.timer = 0 then loadTicks s.cfg d s.extraTicks else s.timer - 1) = 0
  · exact .inl ⟨hz, by rw [if_pos hz] at h; exact h.symm⟩
  · exact .inr ⟨hz, by rw [if_neg hz] at h; exact h.symm⟩

theorem exec_xfer_cases {c : Command} {discard : Bool} {w : WordSel} {k : ByteSel}
    (h : exec (.xfer c discard w k) s = .next t) :
    (s.exchanging = false ∧ s.channelOk = false ∧ t = s.raise .chRange)
      ∨ (s.exchanging = false ∧ s.channelOk = true ∧ s.selected s.channel = false ∧ t = s.raise .csNotSelected)
      ∨ (s.exchanging = false ∧ s.channelOk = true ∧ s.selected s.channel = true
        ∧ discard = false ∧ turnForbidden s.cfg w = true ∧ t = s.raise .mode)
      ∨ (s.exchanging = false ∧ s.channelOk = true ∧ s.selected s.channel = true
        ∧ (discard = true ∨ turnForbidden s.cfg w = false) ∧ t = s.clockRise (commandByte s.cfg c) 0)
      ∨ (s.sclk = false ∧ s.exchanging = true ∧ s.tx = none ∧ t = s.raise .unwritten)
      ∨ (∃ x, s.sclk = false ∧ s.exchanging = true ∧ s.tx = some x ∧ t = s.clockRise x s.bitcnt)
      ∨ (s.sclk = true ∧ s.bitcnt < 7 ∧ t = s.clockFall)
      ∨ (s.sclk = true ∧ 7 ≤ s.bitcnt ∧ discard = true ∧ t = s.clockFall.advance)
      ∨ (s.sclk = true ∧ 7 ≤ s.bitcnt ∧ discard = false ∧ s.rx = none ∧ t = s.raise .unwritten)
      ∨ (∃ b, s.sclk = true ∧ 7 ≤ s.bitcnt ∧ discard = false ∧ s.rx = some b
        ∧ t = (s.clockFall.putByte w k b).advance) := by
  simp only [exec, execXfer, Host.Outcome.next.injEq] at h
  subst h
  cases hc : s.sclk with
  | true =>
    have he := s.exchanging_of_sclk hc
    by_cases h7 : s.bitcnt < 7
    · simp [he, h7]
    · have h7' : 7 ≤ s.bitcnt := by omega
      cases discard <;> cases hr : s.rx <;> simp [h7, h7', he, xferFinish, hr]
  | false =>
    cases he : s.exchanging with
    | true => cases hx : s.tx <;> simp [xferRise, hx]
    | false =>
      cases hk : s.channelOk <;> cases hs : s.selected s.channel <;> cases discard <;>
        cases ht : turnForbidden s.cfg w <;> simp [xferStart, hk, hs, ht]

theorem exec_chk_cases {w : WordSel} (h : exec (.chk w) s = .next t) :
    (turnForbidden s.cfg w = true ∧ t = s.raise .mode)
      ∨ (turnForbidden s.cfg w = false ∧ s.word w = none ∧ t = s.raise .unwritten)
      ∨ (∃ x, turnForbidden s.cfg w = false ∧ s.word w = some x ∧ t = (s.putValidity w (parityValid x)).advance) := by
  simp only [exec, execChk, Host.Outcome.next.injEq] at h
  subst h
  cases turnForbidden s.cfg w <;> cases s.word w <;> simp

theorem exec_led_cases (h : exec .led s = .next t) :
    (s.channelOk = false ∧ t = s.raise .chRange)
      ∨ (s.channelOk = true ∧ s.indicatorValue = none ∧ t = s.raise .unwritten)
      ∨ (∃ b, s.channelOk = true ∧ s.indicatorValue = some b ∧ t = (s.putIndicator s.channel b).advance) := by
  simp only [exec, execLed, Host.Outcome.next.injEq] at h
  subst h
  cases s.channelOk <;> cases s.indicatorValue <;> simp

theorem exec_nrm_cases {w : WordSel} (h : exec (.nrm w) s = .next t) :
    (s.channelOk = false ∧ t = s.raise .chRange)
      ∨ (s.channelOk = true ∧ turnForbidden s.cfg w = true ∧ t = s.raise .mode)
      ∨ (s.channelOk = true ∧ turnForbidden s.cfg w = false ∧ (s.word w = none ∨ s.validity w = none)
        ∧ t = s.raise .unwritten)
      ∨ (∃ x v, s.channelOk = true ∧ turnForbidden s.cfg w = false ∧ s.word w = some x ∧ s.validity w = some v
        ∧ t = (s.putReading w s.channel (normalize x v) x).advance) := by
  simp only [exec, execNrm, Host.Outcome.next.injEq] at h
  subst h
  cases s.channelOk <;> cases turnForbidden s.cfg w <;> cases s.word w <;> cases s.validity w <;> simp

theorem exec_chs_cases {n : Byte} (h : exec (.chs n) s = .next t) :
    (s.cfg.n ≤ n.toNat ∧ t = s.raise .chRange) ∨ (n.toNat < s.cfg.n ∧ t = (s.putChannel n).advance) := by
  simp only [exec, execChs, Host.Outcome.next.injEq] at h
  subst h
  by_cases hn : s.cfg.n ≤ n.toNat
  · exact .inl ⟨hn, if_pos hn⟩
  · exact .inr ⟨Nat.lt_of_not_le hn, if_neg hn⟩

theorem exec_nxt_cases {a : Addr} (h : exec (.nxt a) s = .next t) :
    (s.channel + 1 < s.cfg.n ∧ t = (s.putChannel (s.ch + 1)).jump a) ∨ (s.cfg.n ≤ s.channel + 1 ∧ t = s.advance) := by
  simp only [exec, execNxt, Host.Outcome.next.injEq] at h
  subst h
  by_cases hn : s.channel + 1 < s.cfg.n
  · exact .inl ⟨hn, if_pos hn⟩
  · exact .inr ⟨Nat.le_of_not_lt hn, if_neg hn⟩

theorem exec_jmp_cases {a : Addr} (h : exec (.jmp a) s = .next t) : t = s.jump a := by
  simpa [exec, execJmp, eq_comm] using h

theorem exec_pub_cases (h : exec .pub s = .next t) :
    (s.pubReq = true ∧ s.pubAck = true ∧ t = s.withdraw)
      ∨ (s.pubReq = true ∧ s.pubAck = false ∧ t = s)
      ∨ (s.pubReq = false ∧ s.pubRelease = true ∧ s.pubAck = true ∧ t = s)
      ∨ (s.pubReq = false ∧ s.pubRelease = true ∧ s.pubAck = false ∧ t = s.closeHandshake.advance)
      ∨ (s.pubReq = false ∧ s.pubRelease = false ∧ s.channelArray.any Option.isNone = true ∧ t = s.raise .unwritten)
      ∨ (s.pubReq = false ∧ s.pubRelease = false ∧ s.channelArray.any Option.isNone = false
        ∧ t = s.publish s.channelArray) := by
  simp only [exec, execPub, Host.Outcome.next.injEq] at h
  subst h
  cases s.pubReq <;> cases s.pubRelease <;> cases s.pubAck <;> cases s.channelArray.any Option.isNone <;> simp

theorem exec_go_cases (h : exec .go s = .next t) :
    (s.phase = .cycling ∧ t = s.raise .phase) ∨ (s.phase = .idle ∧ t = s.startCycling.advance) := by
  simp only [exec, execGo, Host.Outcome.next.injEq] at h
  subst h
  cases s.phase <;> simp

end Sys2Proof.Machine
end

