-- ==== Sys2Proof/Laws/PerInstr.lean ====
section
/-!
SUPPORT. Laws stated micro-op by micro-op. `TableRow`: the encoding of every micro-op, well-formed or not, matches its row of the
opcode map under the row's mask (R307).
-/

namespace Sys2Proof.Laws.TableRow

open Sys2Proof

/-- The encoded word matches the micro-op's row of R307. -/
def Statement (i : Instr) : Prop := encode i &&& (tableRow i).mask = (tableRow i).bits

theorem csa : Statement .csa := by unfold Statement; decide

theorem csd : Statement .csd := by unfold Statement; decide

theorem xfer (c : Command) (discard : Bool) (w : WordSel) (k : ByteSel) : Statement (.xfer c discard w k) := by
  cases c <;> cases discard <;> cases w <;> cases k <;> unfold Statement <;> decide

theorem wait (d : Delay) : Statement (.wait d) := by cases d <;> unfold Statement <;> decide

theorem chk (w : WordSel) : Statement (.chk w) := by cases w <;> unfold Statement <;> decide

theorem led : Statement .led := by unfold Statement; decide

theorem nrm (w : WordSel) : Statement (.nrm w) := by cases w <;> unfold Statement <;> decide

theorem chs (n : Byte) : Statement (.chs n) := by
  simp only [Statement, encode, tableRow, formatU]; revert n; decide

theorem nxt (t : Addr) : Statement (.nxt t) := by
  simp only [Statement, encode, tableRow, formatU]; revert t; decide

theorem jmp (t : Addr) : Statement (.jmp t) := by
  simp only [Statement, encode, tableRow, formatU]; revert t; decide

theorem pub : Statement .pub := by unfold Statement; decide

theorem go : Statement .go := by unfold Statement; decide

end Sys2Proof.Laws.TableRow
end

