-- ==== Sys2Proof/Laws/Step.lean ====
section
/-!
SUPPORT. Everything a step can do, once: what a fetch finds, and how a next state came about.
-/

namespace Sys2Proof.Machine

open Sys2Proof

variable {s t : State}

/-- A fetch finds a micro-op exactly when the configuration is well-formed, no fault is recorded, and `upc` names that micro-op. -/
theorem fetch_run_iff (i : Instr) :
    fetch s = .run i ↔ configOk s.cfg = true ∧ s.fault = FaultSet.none ∧ currentOp s = some i := by
  unfold fetch currentOp
  cases configOk s.cfg with
  | false => simp
  | true =>
    by_cases hf : s.fault = FaultSet.none
    · cases s.upcCarry with
      | true => simp [hf]
      | false =>
        cases s.rom[s.upc.toNat]? with
        | none => simp [hf]
        | some u => cases hd : decodeWord u <;> simp [hf, hd]
    · simp [hf]

/-- A next state of the sequencer is a recorded fetch fault or the micro-op's own next state. -/
theorem sequencerStep_cases (h : sequencerStep s = .next t) :
    (∃ c, fetch s = .raises c ∧ t = s.raise c) ∨ (∃ i, fetch s = .run i ∧ exec i s = .next t) := by
  unfold sequencerStep at h
  split at h
  · cases h
  · cases h
  · rename_i c hc
    exact .inl ⟨c, hc, by cases h; rfl⟩
  · rename_i i hi
    exact .inr ⟨i, hi, h⟩

theorem andThen_eq_next_iff (o : Host.Outcome State Fault Refusal) (k : State → Host.Outcome State Fault Refusal) :
    andThen o k = .next t ↔ ∃ u, o = .next u ∧ k u = .next t := by
  cases o <;> simp [andThen]

@[simp] theorem andThen_next (u : State) (k : State → Host.Outcome State Fault Refusal) :
    andThen (.next u) k = k u := rfl

/-- A step is a sequencer step, then the environment's move. -/
theorem step_cases (h : step s = .next t) : ∃ u, sequencerStep s = .next u ∧ t = u.environment := by
  obtain ⟨u, hu, ht⟩ := (andThen_eq_next_iff _ _).1 h
  exact ⟨u, hu, by cases ht; rfl⟩

theorem stepWith_cases {inp : Inputs} (h : stepWith inp s = .next t) :
    ∃ u, sequencerStep s = .next u ∧ t = u.drive inp := by
  obtain ⟨u, hu, ht⟩ := (andThen_eq_next_iff _ _).1 h
  exact ⟨u, hu, by cases ht; rfl⟩

theorem step_of_sequencerStep (h : sequencerStep s = .next t) : step s = .next t.environment := by
  unfold step; rw [h]; rfl

theorem stepWith_of_sequencerStep (h : sequencerStep s = .next t) (inp : Inputs) :
    stepWith inp s = .next (t.drive inp) := by
  unfold stepWith; rw [h]; rfl

theorem sequencerStep_of_fetch {i : Instr} (h : fetch s = .run i) : sequencerStep s = exec i s := by
  unfold sequencerStep; rw [h]

@[simp] theorem currentOp_drive (s : State) (inp : Inputs) : currentOp (s.drive inp) = currentOp s := rfl

@[simp] theorem currentOp_environment (s : State) : currentOp s.environment = currentOp s := rfl

@[simp] theorem currentOp_raise (s : State) (c : FaultCode) : currentOp (s.raise c) = currentOp s := rfl

/-- What is placed for the next fetch is what it finds. -/
theorem currentOp_placeNext (s : State) (u : Word) (i : Instr) (h : decodeWord u = .ok i) :
    currentOp (s.placeNext u) = some i := by
  simp [currentOp, placeWord_get, h]

/-! ### Runs -/

theorem runWith_nil (s : State) : runWith [] s = .next s := rfl

theorem runWith_cons (inp : Inputs) (rest : List Inputs) (s : State) :
    runWith (inp :: rest) s = andThen (stepWith inp s) (runWith rest) := rfl

theorem execWith_cons (i : Instr) (inp : Inputs) (rest : List Inputs) (s : State) :
    execWith i (inp :: rest) s = andThen (exec i s) fun t => execWith i rest (t.drive inp) := rfl

theorem timedTrace_cons (now : ℚ) (inp : Inputs) (rest : List Inputs) (h : sequencerStep s = .next t) :
    timedTrace now (inp :: rest) s
      = (stepEvents s t).map (fun e => (now + e.1, e.2)) ++ timedTrace (now + stepFloor s t) rest (t.drive inp) := by
  simp only [timedTrace]; rw [h]; rfl

/-- An invariant that every step keeps holds along every run. -/
theorem runWith_invariant (P : State → Prop) (keep : ∀ inp s t, P s → stepWith inp s = .next t → P t) :
    ∀ (inputs : List Inputs) (s t : State), P s → runWith inputs s = .next t → P t := by
  intro inputs
  induction inputs with
  | nil => intro s t hs h; cases h; exact hs
  | cons inp rest ih =>
    intro s t hs h
    obtain ⟨u, hu, ht⟩ := (andThen_eq_next_iff _ _).1 (runWith_cons inp rest s ▸ h)
    exact ih u t (keep inp s u hs hu) ht

end Sys2Proof.Machine
end

