-- ==== Sys2Proof/Laws/Trace.lean ====
section
/-!
SUPPORT. Small facts about stamped traces: durations are not negative, a trace splits at two of its events, and the trace of a run in
two parts is that of the first part and then that of the second.
-/

namespace Sys2Proof.Machine

open Sys2Proof

theorem halfBit_nonneg (cfg : Config) (h : 0 ≤ cfg.fAcq) : 0 ≤ halfBit cfg := by
  unfold halfBit; positivity

theorem tickTime_nonneg (cfg : Config) (h : 0 ≤ cfg.fTick) : 0 ≤ tickTime cfg := by
  unfold tickTime; positivity

theorem stepFloor_nonneg (s t : State) (h1 : 0 ≤ s.cfg.fAcq) (h2 : 0 ≤ s.cfg.fTick) : 0 ≤ stepFloor s t := by
  unfold stepFloor
  split
  · exact halfBit_nonneg _ h1
  · split
    · exact tickTime_nonneg _ h2
    · exact le_rfl

/-- A stamped trace whose events at places `i` and, after it, `j` are known splits there. -/
theorem trace_split (tr : List (ℚ × PinEvent)) (i j : Nat) (e e' : PinEvent)
    (h : (tr.map Prod.snd)[i]? = some e) (h' : ((tr.map Prod.snd).drop (i + 1))[j]? = some e') :
    ∃ t1 t2, tr = tr.take i ++ (t1, e) :: ((tr.drop (i + 1)).take j ++ (t2, e') :: (tr.drop (i + 1)).drop (j + 1)) := by
  have split1 : ∀ (l : List (ℚ × PinEvent)) (n : Nat) (a : PinEvent), (l.map Prod.snd)[n]? = some a →
      ∃ q, l = l.take n ++ (q, a) :: l.drop (n + 1) := by
    intro l n a ha
    rw [List.getElem?_map, Option.map_eq_some_iff] at ha
    obtain ⟨⟨q, b⟩, hb, rfl⟩ := ha
    obtain ⟨hn, hb⟩ := List.getElem?_eq_some_iff.1 hb
    exact ⟨q, by rw [show (q, b) = l[n] from hb.symm, List.cons_getElem_drop_succ, List.take_append_drop]⟩
  obtain ⟨t1, h1⟩ := split1 tr i e h
  rw [← List.map_drop] at h'
  obtain ⟨t2, h2⟩ := split1 (tr.drop (i + 1)) j e' h'
  exact ⟨t1, t2, by rw [← h2]; exact h1⟩

theorem runWith_append (xs ys : List Inputs) :
    ∀ {s t : State}, runWith xs s = .next t → runWith (xs ++ ys) s = runWith ys t := by
  induction xs with
  | nil => intro s t h; cases h; rfl
  | cons x xs ih =>
    intro s t h
    obtain ⟨u, hu, ht⟩ := (andThen_eq_next_iff _ _).1 h
    rw [List.cons_append, runWith_cons, hu, andThen_next, ih ht]

/-- How long a run has lasted at least. -/
def lasted : List Inputs → State → ℚ
  | [], _ => 0
  | inp :: rest, s =>
    match sequencerStep s with
    | .next t => stepFloor s t + lasted rest (t.drive inp)
    | .fault _ => 0
    | .refused _ => 0

theorem timedTrace_append (xs ys : List Inputs) :
    ∀ {s t : State} (now : ℚ), runWith xs s = .next t →
      timedTrace now (xs ++ ys) s = timedTrace now xs s ++ timedTrace (now + lasted xs s) ys t := by
  induction xs with
  | nil => intro s t now h; cases h; simp [timedTrace, lasted]
  | cons x xs ih =>
    intro s t now h
    obtain ⟨u, hu, ht⟩ := (andThen_eq_next_iff _ _).1 h
    obtain ⟨v, hv, rfl⟩ := stepWith_cases hu
    rw [List.cons_append, timedTrace_cons _ _ _ hv, timedTrace_cons _ _ _ hv, ih _ ht, List.append_assoc]
    simp only [lasted, hv, add_assoc]

/-- A later start moves every stamp. -/
theorem timedTrace_shift (d : ℚ) (inputs : List Inputs) :
    ∀ (s : State) (now : ℚ), timedTrace (now + d) inputs s = (timedTrace now inputs s).map fun e => (e.1 + d, e.2) := by
  induction inputs with
  | nil => intro s now; rfl
  | cons x xs ih =>
    intro s now
    cases h : sequencerStep s with
    | next t =>
      rw [timedTrace_cons _ _ _ h, timedTrace_cons _ _ _ h, add_right_comm, ih, List.map_append, List.map_map]
      congr 1
      exact List.map_congr_left fun e _ => by simp [add_right_comm]
    | fault f => simp only [timedTrace]; rw [h]; rfl
    | refused r => simp only [timedTrace]; rw [h]; rfl

theorem pinTrace_append (xs ys : List Inputs) {s t : State} (h : runWith xs s = .next t) :
    pinTrace (xs ++ ys) s = pinTrace xs s ++ pinTrace ys t := by
  unfold pinTrace
  rw [timedTrace_append xs ys 0 h, timedTrace_shift, List.map_append, List.map_map]
  rfl

/-- The trace grows by the last step's events. -/
theorem pinTrace_concat (xs : List Inputs) (inp : Inputs) {s t u : State} (h : runWith xs s = .next t)
    (hu : sequencerStep t = .next u) :
    pinTrace (xs ++ [inp]) s = pinTrace xs s ++ (stepEvents t u).map Prod.snd := by
  rw [pinTrace_append xs [inp] h]
  unfold pinTrace
  rw [timedTrace_cons _ _ _ hu]
  simp [timedTrace]

end Sys2Proof.Machine
end

