-- ==== Sys2Proof/Tests/Slice0.lean ====
section
/-!
SUPPORT. The model's own tests, each with the vector of spec/95_test_vectors.md (or the rule) its expected result comes from, and for
each statement with hypotheses a concrete state that meets them.
-/

namespace Sys2Proof.Tests

open Sys2Proof Sys2Proof.Machine

/-- Nothing driven: `MISO` high, no acknowledgement, no extra ticks. -/
def quiet : Inputs := ⟨true, false, false, 0⟩

/-- The defaults of R7 with N, MODE and LED_POLICY given and the OPEN parameters fixed for the tests. -/
def cfgOf (n : Nat) (mode : Mode) (policy : LedPolicy) : Config :=
  { Config.defaults with
    n := n, mode := mode, ledPolicy := policy, cmdReadTurn := 0xA5, cmdZeroSet := 0x5A
    selectPins := List.range n, indicatorPins := List.range n, fTick := 16000000, timerWidth := 22 }

/-- A block of N = 8 channels in single-turn mode, right after reset. -/
def single : State := poweredUp (cfgOf 8 .singleTurn .both) quiet

/-- The same in multi-turn mode, policy BOTH. -/
def multi : State := poweredUp (cfgOf 8 .multiTurn .both) quiet

/-- The same in multi-turn mode, policy POSITION_ONLY. -/
def multiPosition : State := poweredUp (cfgOf 8 .multiTurn .positionOnly) quiet

/-- Does the outcome give a next state with the property? -/
def okNext (o : Host.Outcome State Fault Refusal) (p : State → Bool) : Bool :=
  match o with
  | .next t => p t
  | .fault _ => false
  | .refused _ => false

/-- Does the outcome give a next state that records exactly this fault at the same `upc`? -/
def faultsWith (o : Host.Outcome State Fault Refusal) (s : State) (c : FaultCode) : Bool :=
  okNext o fun t => t.fault == FaultSet.none.insert c && t.upc == s.upc

/-- `single` with channel `c` current and channel `i` selected. -/
def selectedAt (c : Byte) (i : Nat) : State := { single with ch := c, cs := single.cs.set i true }

/-! ### WellFormed: an ill-formed term for each check -/

/-- R302: D = 1 with w = 1. -/
theorem test_wellFormed_discard_word : (Instr.xfer .read true .turn .lo).wellFormed = false := by decide

/-- R302: D = 1 with k = 1. -/
theorem test_wellFormed_discard_byte : (Instr.xfer .read true .position .hi).wellFormed = false := by decide

/-! ### Decode: words of R312 and 95 §2.11, written out from the encoding -/

theorem test_decode_csa : decodeWord 0b0001000000000000 = .ok .csa := by decide

theorem test_decode_csd : decodeWord 0b0010000000000000 = .ok .csd := by decide

theorem test_decode_xfer_position_hi : decodeWord 0b0011000000000001 = .ok (.xfer .read false .position .hi) := by decide

theorem test_decode_xfer_readTurn : decodeWord 0b0011000100000000 = .ok (.xfer .readTurn false .position .lo) := by decide

theorem test_decode_xfer_turn_hi : decodeWord 0b0011000000000011 = .ok (.xfer .read false .turn .hi) := by decide

theorem test_decode_xfer_turn_lo : decodeWord 0b0011000000000010 = .ok (.xfer .read false .turn .lo) := by decide

theorem test_decode_xfer_zeroSet : decodeWord 0b0011001010000000 = .ok (.xfer .zeroSet true .position .lo) := by decide

theorem test_decode_waits :
    [0x4000, 0x4100, 0x4200, 0x4300, 0x4400, 0x4500].map decodeWord
      = [Delay.settle, .turn, .hold, .csIdle, .cycle, .zero].map (fun d => .ok (.wait d)) := by decide

theorem test_decode_chk : decodeWord 0b0101000000000001 = .ok (.chk .turn) := by decide

theorem test_decode_led : decodeWord 0b0110000000000000 = .ok .led := by decide

theorem test_decode_nrm : decodeWord 0b0111000000000001 = .ok (.nrm .turn) := by decide

theorem test_decode_chs : decodeWord 0b1000000011111111 = .ok (.chs 255) := by decide

theorem test_decode_nxt : decodeWord 0b1001000000000010 = .ok (.nxt 2) := by decide

theorem test_decode_jmp : decodeWord 0b1010000000000001 = .ok (.jmp 1) := by decide

theorem test_decode_pub : decodeWord 0b1011000000000000 = .ok .pub := by decide

theorem test_decode_go : decodeWord 0b1100000000000000 = .ok .go := by decide

/-- 95 §2.11, the illegal words with their reasons. -/
theorem test_decode_illegal :
    [0x0000, 0xD000, 0xE000, 0xF000, 0x1001, 0x1100, 0x2080, 0x3300, 0x3004, 0x3040, 0x3081, 0x3082, 0x4600, 0x4F00, 0x4001,
        0x5002, 0x7003, 0x5100, 0x6001, 0x8100, 0x9102, 0xB001, 0xC100].map decodeWord
      = [DecodeError.reservedOpcode, .reservedOpcode, .reservedOpcode, .reservedOpcode, .operandNotZero, .selectorNotZero,
          .operandNotZero, .reservedCommand, .operandNotZero, .operandNotZero, .discardWithDestination,
          .discardWithDestination, .reservedDelay, .reservedDelay, .operandNotZero, .operandNotZero, .operandNotZero,
          .selectorNotZero, .operandNotZero, .selectorNotZero, .selectorNotZero, .operandNotZero,
          .selectorNotZero].map .illegal := by decide

/-- 95 §3 P3: the ROM of a single-turn block with zero-setting of channel 0. -/
theorem test_rom_p3 :
    buildRom { cfgOf 1 .singleTurn .both with zeroSetChannels := [0] }
      = [0x8000, 0x1000, 0x4000, 0x3080, 0x4000, 0x3280, 0x4200, 0x2000, 0x4300, 0x4500, 0xC000, 0x8000, 0x1000, 0x4000,
          0x3001, 0x4000, 0x3000, 0x4200, 0x2000, 0x4300, 0x5000, 0x6000, 0x7000, 0x900C, 0xB000, 0x4400, 0xA00B] := by
  decide

/-- 95 §3 P2: the ROM of a multi-turn block. -/
theorem test_rom_p2 :
    buildRom (cfgOf 1 .multiTurn .both)
      = [0xC000, 0x8000, 0x1000, 0x4000, 0x3001, 0x4000, 0x3100, 0x4100, 0x3003, 0x4000, 0x3002, 0x4200, 0x2000, 0x4300,
          0x5000, 0x5001, 0x6000, 0x7000, 0x7001, 0x9002, 0xB000, 0x4400, 0xA001] := by
  decide

/-! ### Data functions: 95 §2.1, §2.2 -/

theorem test_parity_table :
    [0x0000, 0xFFFF, 0x4001, 0x8001, 0xC000, 0x3FFF, 0x7FFF, 0xBFFF, 0x8000, 0x2AAA, 0x1555, 0x9234, 0xD234].map parityValid
      = [false, false, false, true, true, true, false, false, false, false, false, true, false] := by decide

theorem test_normalize_table :
    normalize 0x9234 true = 0x1234 ∧ normalize 0xFFFF true = 0x3FFF ∧ normalize 0x9234 false = 0x7FFF := by decide

/-- 95 §2.3: the eight sampled bits 1 0 0 1 0 0 1 0 make 0x92. -/
theorem test_receivedByte : receivedByte [true, false, false, true, false, false, true, false] = 0x92 := by decide

/-- 95 §2.6: the tick counts of WAIT SETTLE, TURN, CYCLE and ZERO at 16 MHz. -/
theorem test_waitTicks :
    [Delay.settle, .turn, .cycle, .zero].map (waitTicks (cfgOf 8 .singleTurn .both)) = [48, 640, 1600, 4000000] := by decide

/-! ### The micro-ops, one step each -/

/-- 95 §2.5 row 1: CH = 2, nothing selected; the pin goes low. -/
theorem test_csa_selects :
    okNext (exec .csa { single with ch := 2 }) (fun t => t.selected 2 && !t.selectLevel 2 && t.selectLevel 3 && t.upc == 1) = true := by
  decide

/-- 95 §2.5 row 4: F3 is checked before F4. -/
theorem test_csa_range_before_conflict : faultsWith (exec .csa (selectedAt 9 2)) single .chRange = true := by decide

/-- 95 §2.5 row 5: CH = 2 selected; the pin goes high. -/
theorem test_csd_deselects :
    okNext (exec .csd (selectedAt 2 2)) (fun t => !t.selected 2 && t.selectLevel 2 && t.upc == 1) = true := by decide

/-- 95 §2.5 row 6. -/
theorem test_csd_not_selected : faultsWith (exec .csd (selectedAt 3 2)) single .csNotSelected = true := by decide

/-- 95 §2.6: WAIT SETTLE loads 48 ticks at 16 MHz and holds. -/
theorem test_wait_loads :
    okNext (exec (.wait .settle) single) (fun t => t.timer == 48 && t.upc == 0) = true := by decide

/-- R422: the last tick completes the WAIT. -/
theorem test_wait_completes :
    okNext (exec (.wait .settle) { single with timer := 1 }) (fun t => t.timer == 0 && t.upc == 1) = true := by decide

/-- R451, R461: XFER READ_TURN starts by driving bit 7 of the command and latching MISO in rx[7]. -/
theorem test_xfer_first_cell :
    okNext (exec (.xfer .readTurn false .position .lo) { selectedAt 2 2 with rx := some 0 })
      (fun t => t.sclk && t.mosi && t.tx == some 0xA5 && t.bitcnt == 0 && (t.rx.getD 0).getLsbD 7 && t.upc == 0) = true := by
  decide

/-- 95 §2.3: the last falling edge stores 0x92 in WB[0][1]. -/
theorem test_xfer_stores :
    okNext (exec (.xfer .read false .position .hi) { selectedAt 2 2 with sclk := true, bitcnt := 7, rx := some 0x92 })
      (fun t => t.byteAt .position .hi == some 0x92 && t.byteAt .position .lo == none && !t.sclk && t.upc == 1) = true := by
  decide

/-- 95 §2.7 row 1: W[0] = 0x8001. -/
theorem test_chk_valid :
    okNext (exec (.chk .position) { single with wbPosition := ⟨some 0x80, some 0x01⟩ })
      (fun t => t.vPosition == some true && t.vTurn == none && t.upc == 1) = true := by decide

/-- 95 §2.7 row 5. -/
theorem test_chk_mode : faultsWith (exec (.chk .turn) single) single .mode = true := by decide

/-- 95 §2.8 row 4: MULTI_TURN, BOTH, V = 1, 0. -/
theorem test_led_both :
    okNext (exec .led { multi with vPosition := some true, vTurn := some false })
      (fun t => !t.lit 0 && t.validAt 0 == some false) = true := by decide

/-- 95 §2.8 row 3: MULTI_TURN, POSITION_ONLY, V = 1, 0. -/
theorem test_led_positionOnly :
    okNext (exec .led { multiPosition with vPosition := some true, vTurn := some false })
      (fun t => t.lit 0 && t.indicatorLevel 0 && t.validAt 0 == some true) = true := by decide

/-- 95 §2.9 row 1. -/
theorem test_nrm_position :
    okNext (exec (.nrm .position) { single with ch := 1, wbPosition := ⟨some 0x92, some 0x34⟩, vPosition := some true })
      (fun t => t.posAt 1 == some 0x1234 && t.rawpAt 1 == some 0x9234 && t.posAt 0 == none) = true := by decide

/-- 95 §2.9 row 3. -/
theorem test_nrm_turn :
    okNext (exec (.nrm .turn) { multi with wbTurn := ⟨some 0x80, some 0x01⟩, vTurn := some true })
      (fun t => t.turnAt 0 == some 0x0001 && t.rawtAt 0 == some 0x8001 && t.posAt 0 == none) = true := by decide

/-- 95 §2.10: CHS 7 and CHS 8 at N = 8. -/
theorem test_chs :
    okNext (exec (.chs 7) single) (fun t => t.ch == 7 && t.upc == 1) = true
      ∧ faultsWith (exec (.chs 8) single) single .chRange = true := by decide

/-- 95 §2.10: NXT 2 at CH = 3 and at CH = 7, upc = 13, N = 8. -/
theorem test_nxt :
    okNext (exec (.nxt 2) { single with ch := 3, upc := 13 }) (fun t => t.ch == 4 && t.upc == 2) = true
      ∧ okNext (exec (.nxt 2) { single with ch := 7, upc := 13 }) (fun t => t.ch == 7 && t.upc == 14) = true := by decide

/-- 95 §2.10: N = 256, CH = 255: CH + 1 = 256 does not wrap. -/
theorem test_nxt_no_wrap :
    okNext (exec (.nxt 2) { single with cfg := { single.cfg with n := 256 }, ch := 255, upc := 13 })
      (fun t => t.ch == 255 && t.upc == 14) = true := by decide

/-- 95 §2.10: JMP 1 at upc = 16. -/
theorem test_jmp : okNext (exec (.jmp 1) { single with upc := 16 }) (fun t => t.upc == 1) = true := by decide

/-- A block of N = 2 channels with the channel array of 95 §2.10's PUB row. -/
def ready : State :=
  { poweredUp (cfgOf 2 .singleTurn .both) quiet with pos := [some 0x0001, some 0x7FFF], upc := 14 }

/-- 95 §2.10: PUB publishes [0x0001, 0x7FFF] and holds with PUB_REQ = 1. -/
theorem test_pub_publishes :
    okNext (exec .pub ready) (fun t => t.pubBuf == [some 0x0001, some 0x7FFF] && t.pubReq && t.upc == 14) = true := by decide

/-- R681: the second hold ends when PUB_ACK is 0, and PUB completes. -/
theorem test_pub_completes :
    okNext (exec .pub { ready with pubRelease := true }) (fun t => !t.pubRelease && !t.pubReq && t.upc == 15) = true := by decide

/-- 95 §2.10: GO in IDLE and in CYCLING. -/
theorem test_go :
    okNext (exec .go single) (fun t => t.phase == .cycling && t.upc == 1) = true
      ∧ faultsWith (exec .go { single with phase := .cycling }) single .phase = true := by decide

/-- 95 §2.12: the ROM [0x0000] raises F1, and after it there is no step. -/
theorem test_fetch_illegal :
    faultsWith (step { single with rom := [0x0000] }) single .illegalUop = true
      ∧ okNext (step { single with fault := FaultSet.none.insert .illegalUop }) (fun _ => true) = false := by decide

/-- 95 §2.12: the fetch after JMP 5 in a ROM of one word raises F2 at upc = 5. -/
theorem test_fetch_range :
    okNext (step { single with rom := [0xA005], upc := 5 }) (fun t => t.fault == FaultSet.none.insert .upcRange && t.upc == 5) = true := by
  decide

/-- R110, D38: a micro-op at address 255 of a ROM of 256 words does not wrap to 0: the next fetch raises F2. -/
theorem test_no_wrap_at_256 :
    okNext (exec (.wait .settle) { single with upc := 255, timer := 1 })
      (fun t => faultsWith (step { t with rom := List.replicate 256 0xA001 }) t .upcRange) = true := by decide

/-- R694: from reset, `step` runs the word that is placed for the next fetch. -/
theorem test_withFetchWord :
    okNext (step (State.reset.withFetchWord 16 0x8003)) (fun t => t.ch == 3 && t.upc == 1) = true := by decide

/-! ### Witnesses: for each statement with hypotheses, something that meets them (for each clause) -/

theorem witness_DecodeOfEncode : (Instr.xfer .zeroSet true .position .lo).wellFormed = true := by decide

theorem witness_EncodeOfDecode : decodeWord 0x3280 = .ok (.xfer .zeroSet true .position .lo) := by decide

theorem witness_RomImageDecodes :
    (cfgOf 1 .singleTurn .both).mode = .singleTurn ∧ configOk (cfgOf 1 .singleTurn .both) = true
      ∧ (cfgOf 256 .multiTurn .both).mode = .multiTurn
      ∧ configOk { cfgOf 23 .multiTurn .both with zeroSetChannels := List.range 23 } = true := by decide

theorem witness_ParitySeesBitFlips : parityValid 0x8001 = true := by decide

/-- CSA: CH = N; CH = N - 1 with a channel selected; CH = N - 1 with none selected. -/
theorem witness_CsaSelectsCurrentChannel :
    (selectedAt 8 2).cfg.n ≤ (selectedAt 8 2).ch.toNat
      ∧ ((selectedAt 7 7).ch.toNat < (selectedAt 7 7).cfg.n ∧ ∃ i < (selectedAt 7 7).cfg.n, (selectedAt 7 7).selected i = true)
      ∧ (Shaped { single with ch := 7 } ∧ ({ single with ch := 7 } : State).ch.toNat < single.cfg.n
        ∧ ∀ i < single.cfg.n, ({ single with ch := 7 } : State).selected i = false) := by
  unfold Shaped; decide

/-- CSD: CH = N; CH not selected; CH = N - 1 selected. -/
theorem witness_CsdDeselectsCurrentChannel :
    (selectedAt 8 2).cfg.n ≤ (selectedAt 8 2).ch.toNat
      ∧ ((selectedAt 7 2).ch.toNat < (selectedAt 7 2).cfg.n ∧ (selectedAt 7 2).selected (selectedAt 7 2).ch.toNat = false)
      ∧ ((selectedAt 7 7).ch.toNat < (selectedAt 7 7).cfg.n ∧ (selectedAt 7 7).selected (selectedAt 7 7).ch.toNat = true) := by
  decide

/-- WAIT: a tick that is not the last; a first step with ticks to load; the last tick; a first step with none to load. -/
theorem witness_WaitCountsTicks :
    1 < ({ single with timer := 2 } : State).timer
      ∧ (single.timer = 0 ∧ 0 < loadTicks single.cfg .settle single.extraTicks)
      ∧ ({ single with timer := 1 } : State).timer = 1
      ∧ (single.timer = 0 ∧ loadTicks { single.cfg with tSettle := 0 } .settle single.extraTicks = 0) := by decide

theorem witness_WaitHoldsThenCompletes :
    single.timer = 0 ∧ (List.replicate 49 quiet).length = loadTicks single.cfg .settle single.extraTicks + 1
      ∧ (List.replicate 48 quiet).length ≤ loadTicks single.cfg .settle single.extraTicks := by decide

theorem witness_WaitTicksCoverTheDelay :
    0 < single.cfg.fTick ∧ 0 ≤ delayTime single.cfg .zero ∧ waitTicks single.cfg .zero < 2 ^ single.cfg.timerWidth := by decide

/-- XFER's checks: CH = N; CH = N - 1 not selected; a stored turn byte in single-turn mode. -/
theorem witness_XferChecksInOrder :
    ((selectedAt 8 2).exchanging = false ∧ (selectedAt 8 2).cfg.n ≤ (selectedAt 8 2).ch.toNat)
      ∧ ((selectedAt 7 2).exchanging = false ∧ (selectedAt 7 2).ch.toNat < (selectedAt 7 2).cfg.n
        ∧ (selectedAt 7 2).selected (selectedAt 7 2).ch.toNat = false)
      ∧ ((selectedAt 7 7).exchanging = false ∧ (selectedAt 7 7).ch.toNat < (selectedAt 7 7).cfg.n
        ∧ (selectedAt 7 7).selected (selectedAt 7 7).ch.toNat = true ∧ (selectedAt 7 7).cfg.mode = .singleTurn) := by decide

/-- XFER's bit cells: the start (after an exchange too); the rising edges of cells 1 and 7; the falling edge of cell 6. -/
theorem witness_XferClocksBitCells :
    (({ selectedAt 7 7 with bitcnt := 8 } : State).exchanging = false ∧ (selectedAt 7 7).ch.toNat < (selectedAt 7 7).cfg.n
        ∧ (selectedAt 7 7).selected (selectedAt 7 7).ch.toNat = true)
      ∧ (∀ n ∈ [1, 7], ({ selectedAt 7 7 with bitcnt := n, tx := some 0xA5, rx := some 0 } : State).sclk = false
        ∧ 0 < n ∧ n < 8)
      ∧ (({ selectedAt 7 7 with sclk := true, bitcnt := 6 } : State).sclk = true ∧ 6 < 7) := by decide

theorem witness_XferStoresTheByte :
    ({ selectedAt 7 7 with sclk := true, bitcnt := 7, rx := some 0x92 } : State).sclk = true
      ∧ ({ selectedAt 7 7 with sclk := true, bitcnt := 7, rx := some 0x92 } : State).bitcnt = 7
      ∧ ({ selectedAt 7 7 with sclk := true, bitcnt := 7, rx := some 0x92 } : State).rx = some 0x92 := by decide

theorem witness_XferExchangesOneByte :
    (selectedAt 7 7).exchanging = false ∧ (selectedAt 7 7).ch.toNat < (selectedAt 7 7).cfg.n
      ∧ (selectedAt 7 7).selected (selectedAt 7 7).ch.toNat = true ∧ WordSel.position = .position
      ∧ (List.replicate 16 quiet).length = 16 := by decide

/-- CHK: a turn word in single-turn mode; an unwritten byte; both bytes written. -/
theorem witness_ChkWritesValidity :
    single.cfg.mode = .singleTurn ∧ single.byteAt .position .hi = none
      ∧ (multi.cfg.mode = .multiTurn ∧ ({ multi with wbTurn := ⟨some 0x80, some 1⟩ } : State).byteAt .turn .hi = some 0x80
        ∧ ({ multi with wbTurn := ⟨some 0x80, some 1⟩ } : State).byteAt .turn .lo = some 1) := by decide

/-- LED: CH = N; an unwritten V[1] under BOTH; a written V[0] at CH = N - 1, in single-turn mode and under BOTH. -/
theorem witness_LedShowsValidity :
    (selectedAt 8 2).cfg.n ≤ (selectedAt 8 2).ch.toNat
      ∧ (multi.ch.toNat < multi.cfg.n ∧ multi.cfg.mode = .multiTurn ∧ multi.cfg.ledPolicy = .both ∧ multi.vTurn = none)
      ∧ (Shaped { single with ch := 7, vPosition := some true } ∧ (7 : Byte).toNat < single.cfg.n
        ∧ ¬ (single.cfg.mode = .multiTurn ∧ single.cfg.ledPolicy = .both))
      ∧ (Shaped { multi with ch := 7, vPosition := some true, vTurn := some false } ∧ (7 : Byte).toNat < multi.cfg.n) := by
  unfold Shaped; decide

/-- NRM: CH = N; a turn word in single-turn mode; an unwritten flag; everything written, at CH = N - 1, for both words. -/
theorem witness_NrmStoresReading :
    (selectedAt 8 2).cfg.n ≤ (selectedAt 8 2).ch.toNat
      ∧ (single.ch.toNat < single.cfg.n ∧ single.cfg.mode = .singleTurn)
      ∧ (single.ch.toNat < single.cfg.n ∧ single.validity .position = none)
      ∧ (Shaped { single with ch := 7, wbPosition := ⟨some 0x92, some 0x34⟩, vPosition := some true }
        ∧ (7 : Byte).toNat < single.cfg.n)
      ∧ (Shaped { multi with ch := 7, wbTurn := ⟨some 0x92, some 0x34⟩, vTurn := some true } ∧ multi.cfg.mode = .multiTurn) := by
  unfold Shaped; decide

/-- CSA and CSD at `upc`, with every hold owned. -/
theorem witness_CsaCsdIdleClock :
    (HoldsOwned { single with upc := 2 } ∧ fetch { single with upc := 2 } = .run .csa)
      ∧ (HoldsOwned { single with upc := 8 } ∧ fetch { single with upc := 8 } = .run .csd) :=
  ⟨⟨⟨fun h => absurd h (by decide), fun h => absurd rfl h, fun h => absurd h (by decide), by decide, by decide, by decide⟩, by decide⟩,
    ⟨fun h => absurd h (by decide), fun h => absurd rfl h, fun h => absurd h (by decide), by decide, by decide, by decide⟩, by decide⟩

theorem witness_ChsSetsChannel : single.cfg.n ≤ (8 : Byte).toNat ∧ (7 : Byte).toNat < single.cfg.n := by decide

/-- JMP and NXT: the address just past the ROM. -/
theorem witness_JmpGoesToTarget :
    configOk single.cfg = true ∧ single.fault = FaultSet.none ∧ single.rom.length ≤ (17 : Addr).toNat := by decide

/-- NXT: CH = N - 2 and CH = N - 1. -/
theorem witness_NxtLoopsOverChannels :
    (({ single with ch := 6 } : State).ch.toNat + 1 < single.cfg.n ∧ single.cfg.n ≤ 256)
      ∧ single.cfg.n ≤ ({ single with ch := 7 } : State).ch.toNat + 1 := by decide

/-- PUB: an unwritten entry; all written; the first hold, held and lifted; the second hold, held and lifted. -/
theorem witness_PubHandsOverTheArray :
    (single.pubReq = false ∧ single.pubRelease = false ∧ ∃ i < single.cfg.n, single.posAt i = none)
      ∧ (ready.pubReq = false ∧ ready.pubRelease = false ∧ ∀ i < ready.cfg.n, ready.posAt i ≠ none)
      ∧ (({ ready with pubReq := true } : State).pubReq = true ∧ ({ ready with pubReq := true } : State).pubAck = false)
      ∧ (({ ready with pubReq := true, pubAck := true } : State).pubReq = true
        ∧ ({ ready with pubReq := true, pubAck := true } : State).pubAck = true)
      ∧ (({ ready with pubRelease := true, pubAck := true } : State).pubReq = false
        ∧ ({ ready with pubRelease := true, pubAck := true } : State).pubRelease = true
        ∧ ({ ready with pubRelease := true, pubAck := true } : State).pubAck = true)
      ∧ (({ ready with pubRelease := true } : State).pubReq = false
        ∧ ({ ready with pubRelease := true } : State).pubRelease = true
        ∧ ({ ready with pubRelease := true } : State).pubAck = false) := by decide

theorem witness_GoStartsCyclingOnce :
    ({ single with phase := .cycling } : State).phase = .cycling ∧ single.phase = .idle := by decide

theorem witness_CheckLedNormalizePosition :
    Shaped { single with ch := 7, wbPosition := ⟨some 0x92, some 0x34⟩ } ∧ (7 : Byte).toNat < single.cfg.n
      ∧ single.cfg.mode = .singleTurn ∧ multiPosition.cfg.ledPolicy = .positionOnly := by
  unfold Shaped; decide

/-- For the statements whose only hypothesis is that a micro-op answers. -/
theorem witness_exec_answers : exec .go single = .next single.startCycling.advance := by rfl

theorem witness_FaultingMicroOpWritesNothing :
    exec .csd single = .next (single.raise .csNotSelected) ∧ (single.raise .csNotSelected).fault ≠ single.fault :=
  ⟨by rfl, by decide⟩

theorem witness_StepRunsDecodedMicroOp :
    configOk single.cfg = true ∧ single.fault = FaultSet.none ∧ single.upcCarry = false
      ∧ single.rom[single.upc.toNat]? = some 0xC000 ∧ decodeWord 0xC000 = .ok .go := by decide

/-- The fetch: a faulted state; `upc` = L and the carry; an illegal word. -/
theorem witness_FetchFaultsInOrder :
    configOk single.cfg = true ∧ (single.raise .mode).fault ≠ FaultSet.none
      ∧ (single.fault = FaultSet.none ∧ ({ single with upc := 17 } : State).rom.length ≤ ({ single with upc := 17 } : State).upc.toNat)
      ∧ ({ single with upcCarry := true } : State).upcCarry = true
      ∧ (({ single with rom := [0x0000] } : State).rom[single.upc.toNat]? = some 0x0000 ∧ single.upcCarry = false
        ∧ decodeWord 0x0000 = .illegal .reservedOpcode) := by decide

theorem witness_IllFormedConfigHasNoRun :
    configOk ({ single with cfg := { single.cfg with n := 0 } } : State).cfg = false := by decide

theorem witness_EnvironmentKeepsToItsPorts :
    ({ single with sclk := true } : State).exchanging = true ∧ single.pubReq = false ∧ single.pubAck = false := by decide

theorem witness_PinsFollowSelectAndIndicator :
    (selectedAt 7 7).selected 7 = true ∧ (selectedAt 7 7).selected 6 = false := by decide

/-! The invariants' premises, together with a step: the reset state, and a state in the middle of an exchange. -/

theorem witness_step_answers : step single = .next single.startCycling.advance.environment := by rfl

theorem witness_shaped_single : Shaped single := by unfold Shaped; decide

theorem witness_StepKeepsSingleSelection : SingleSelection single := by
  intro i j hi
  have h : single.cs = List.replicate 8 false := rfl
  rw [State.selected, h, List.getD_eq_getElem?_getD, List.getElem?_replicate] at hi
  split at hi <;> simp at hi

theorem witness_StepKeepsReadingsLegal : ReadingsLegal single := by
  intro x hx
  have h1 : single.pos = List.replicate 8 none := rfl
  have h2 : single.turn = List.replicate 8 none := rfl
  have h3 : single.pubBuf = List.replicate 8 none := rfl
  simp [h1, h2, h3] at hx

theorem witness_StepKeepsHoldsOwned : HoldsOwned single :=
  ⟨fun h => absurd h (by decide), fun h => absurd rfl h, fun h => absurd h (by decide), by decide, by decide, by decide⟩

/-- The fourth rising edge of the first XFER of the ROM. -/
def midExchange : State :=
  { selectedAt 0 0 with upc := 4, sclk := true, bitcnt := 3, tx := some 0x00, rx := some 0x90, phase := .cycling }

theorem witness_StepKeepsHoldsOwned_mid : HoldsOwned midExchange :=
  ⟨fun _ => ⟨.read, false, .position, .hi, by decide, by decide, by decide, fun _ => by decide, by decide, by decide⟩,
    fun h => absurd rfl h, fun h => absurd h (by decide), by decide, by decide, by decide⟩

theorem witness_step_answers_mid : step midExchange = .next midExchange.clockFall.environment := by rfl

theorem witness_SingleTurnNeverWritesTurnState : TurnUnused single ∧ TurnUnused midExchange := by
  have h1 : single.turn = List.replicate 8 none ∧ single.rawt = List.replicate 8 none := ⟨rfl, rfl⟩
  have h2 : midExchange.turn = List.replicate 8 none ∧ midExchange.rawt = List.replicate 8 none := ⟨rfl, rfl⟩
  exact ⟨fun _ => ⟨rfl, rfl, by simp [h1.1], by simp [h1.2]⟩, fun _ => ⟨rfl, rfl, by simp [h2.1], by simp [h2.2]⟩⟩

theorem witness_StepKeepsTimerInWidth : WaitsFit single ∧ single.timer < 2 ^ single.cfg.timerWidth := by
  have h : ∀ d, waitTicks single.cfg d ≤ 4000000 := fun d => by cases d <;> decide
  have hw : single.cfg.timerWidth = 22 := rfl
  have ht : single.timer = 0 := rfl
  exact ⟨fun d _ => by rw [hw]; exact lt_of_le_of_lt (h d) (by norm_num), by rw [hw, ht]; norm_num⟩

/-- R113 with zero-setting off (1600 ticks of T_CYCLE in 11 bits, where those of T_ZERO do not fit) and on. -/
theorem witness_StepKeepsTimerInWidth_R113 :
    (∀ cfg ∈ [{ single.cfg with timerWidth := 11 }, { single.cfg with zeroSetChannels := [0] }],
      cfg.neededTicks < 2 ^ cfg.timerWidth)
      ∧ ({ single.cfg with timerWidth := 11 } : Config).zeroSetChannels = []
      ∧ ∀ d, waitTicks { single.cfg with zeroSetChannels := [0] } d ≤ waitTicks { single.cfg with zeroSetChannels := [0] } .zero := by
  refine ⟨by decide, rfl, fun d => by cases d <;> decide⟩

/-- The clauses over `exec`: a micro-op that faults in a state that already holds another fault, and one that runs in Cycling. -/
theorem witness_FaultsAndCyclingPersist :
    exec .csd (single.raise .mode) = .next ((single.raise .mode).raise .csNotSelected) ∧ (single.raise .mode).fault.has .mode = true
      ∧ exec (.jmp 1) { single with phase := .cycling } = .next (({ single with phase := .cycling } : State).jump 1) :=
  ⟨rfl, rfl, rfl⟩

theorem witness_UnacknowledgedPublicationHolds :
    fetch { ready with pubReq := true } = .run .pub ∧ ({ ready with pubReq := true } : State).pubReq = true
      ∧ ({ ready with pubReq := true } : State).pubAck = false ∧ ∀ inp ∈ [quiet, quiet], inp.pubAck = false := by decide

/-! One short run of the block's own ROM (N = 1, every delay 0, zero-setting off), for the statements over runs and traces. -/

/-- N = 1 with every delay 0, so that each WAIT takes one step. -/
def fastCfg : Config :=
  { cfgOf 1 .singleTurn .both with tSettle := 0, tTurn := 0, tCycle := 0, tHold := 0, tCsIdle := 0, tZero := 0 }

/-- The same with zero-setting of channel 0. -/
def fastZeroCfg : Config := { fastCfg with zeroSetChannels := [0] }

/-- The same in multi-turn mode. -/
def fastTurnCfg : Config := { fastCfg with mode := .multiTurn }

/-- The relay acknowledges after the publication, then releases. -/
def fastInputs : List Inputs :=
  List.replicate 46 quiet ++ (⟨true, true, false, 0⟩ : Inputs) :: List.replicate 8 quiet

/-- The stamped trace of the run. -/
def fastTrace : List (ℚ × PinEvent) := timedTrace 0 fastInputs (poweredUp fastCfg quiet)

theorem witness_RomRuns : configOk fastCfg = true ∧ 0 < fastCfg.fTick ∧ configOk fastZeroCfg = true := by decide

set_option maxRecDepth 4000 in
/-- Single-turn mode: the run reaches a PUB whose publication is out. -/
theorem witness_PublicationIsParityCheckedReadings :
    okNext (runWith (fastInputs.take 46) (poweredUp fastCfg quiet))
      (fun t => decide (fetch t = .run .pub) && t.pubReq) = true := by decide

set_option maxRecDepth 8000 in
/-- Multi-turn mode under BOTH: the run reaches the PUB of its first cycle, with both words received. -/
theorem witness_PublicationIsParityCheckedReadings_multi :
    fastTurnCfg.mode = .multiTurn ∧ fastTurnCfg.ledPolicy = .both ∧ configOk fastTurnCfg = true
      ∧ okNext (runWith (List.replicate 85 quiet) (poweredUp fastTurnCfg quiet))
        (fun t => decide (fetch t = .run .pub) && (t.rawpAt 0).isSome && (t.rawtAt 0).isSome) = true := by decide

set_option maxRecDepth 4000 in
/-- The selections and the publication of the run: one whole cycle and the start of the next. -/
theorem witness_CyclesSelectChannelsInOrder :
    cycleEvents (pinTrace fastInputs (poweredUp fastCfg quiet)) = [.csOn 0, .pubReq true, .csOn 0] := by decide

theorem without_of_events (tr : List (ℚ × PinEvent)) (i n : Nat) (e : PinEvent)
    (h : e ∉ ((tr.map Prod.snd).drop i).take n) : Without e ((tr.drop i).take n) := by
  intro x hx he
  apply h
  rw [← List.map_drop, ← List.map_take, ← he]
  exact List.mem_map_of_mem hx

theorem countEvents_of_events (tr : List (ℚ × PinEvent)) (e : PinEvent) :
    countEvents e tr = ((tr.map Prod.snd).filter (· == e)).length := by
  simp [countEvents, List.filter_map, Function.comp_def]

set_option maxRecDepth 4000 in
/-- The first select, and the first rising edge after it. -/
theorem witness_SelectSetupTime :
    ∃ before t1 i mid t2 after,
      timedTrace 0 fastInputs (poweredUp fastCfg quiet) = before ++ (t1, .csOn i) :: (mid ++ (t2, .sclkRise) :: after)
        ∧ Without .sclkRise mid := by
  obtain ⟨t1, t2, h⟩ := trace_split fastTrace 0 1 (.csOn 0) .sclkRise (by decide) (by decide)
  exact ⟨_, t1, _, _, t2, _, h, without_of_events _ _ _ _ (by decide)⟩

set_option maxRecDepth 4000 in
/-- The first deselect, and the last falling edge before it. -/
theorem witness_SelectHoldTime :
    ∃ before t1 mid i t2 after,
      timedTrace 0 fastInputs (poweredUp fastCfg quiet)
        = before ++ (t1, .sclkFall) :: (mid ++ (t2, .csOff i) :: after) := by
  obtain ⟨t1, t2, h⟩ := trace_split fastTrace 64 0 .sclkFall (.csOff 0) (by decide) (by decide)
  exact ⟨_, t1, _, _, t2, _, h⟩

set_option maxRecDepth 4000 in
/-- The first deselect, and the select of the second cycle. -/
theorem witness_DeselectTime :
    ∃ before t1 i mid t2 j after,
      timedTrace 0 fastInputs (poweredUp fastCfg quiet)
        = before ++ (t1, .csOff i) :: (mid ++ (t2, .csOn j) :: after) := by
  obtain ⟨t1, t2, h⟩ := trace_split fastTrace 65 3 (.csOff 0) (.csOn 0) (by decide) (by decide)
  exact ⟨_, t1, _, _, t2, _, _, h⟩

theorem exists_of_okNext {o : Host.Outcome State Fault Refusal} {p : State → Bool} (h : okNext o p = true) :
    ∃ t, o = .next t ∧ p t = true := by
  cases o with
  | next t => exact ⟨t, rfl, h⟩
  | fault f => cases h
  | refused r => cases h

set_option maxRecDepth 8000 in
/-- The step that completes the first PUB, and the select of the second cycle in the rest of the run. -/
theorem witness_CycleDelayTime :
    ∃ s t, runWith (fastInputs.take 48) (poweredUp fastCfg quiet) = .next s ∧ fetch s = .run .pub ∧ stepWith quiet s = .next t
      ∧ MovesOn s t ∧ ∃ before t2 j after, timedTrace 0 (List.replicate 6 quiet) t = before ++ (t2, .csOn j) :: after := by
  have h : okNext (runWith (fastInputs.take 48) (poweredUp fastCfg quiet)) (fun s =>
      decide (fetch s = .run .pub) && okNext (stepWith quiet s) (fun t => t.upc == s.upc + 1 && t.upcCarry == (s.upc == 0xFF)
        && ((timedTrace 0 (List.replicate 6 quiet) t).map Prod.snd)[0]? == some (.csOn 0))) = true := by decide
  obtain ⟨s, hs, h⟩ := exists_of_okNext h
  rw [Bool.and_eq_true, decide_eq_true_eq] at h
  obtain ⟨hf, h⟩ := h
  obtain ⟨t, ht, h⟩ := exists_of_okNext h
  simp only [Bool.and_eq_true, beq_iff_eq] at h
  refine ⟨s, t, hs, hf, ht, ⟨h.1.1, h.1.2⟩, [], ?_⟩
  cases hl : timedTrace 0 (List.replicate 6 quiet) t with
  | nil => rw [hl] at h; simp at h
  | cons a rest =>
    rw [hl] at h
    exact ⟨a.1, 0, rest, by rw [List.nil_append, show a = (a.1, .csOn 0) from Prod.ext rfl (by simpa using h.2)]⟩

/-- A trace whose events at places `i` and, after it, `j` are known splits there. -/
theorem events_split (l : List PinEvent) (i j : Nat) (e e' : PinEvent) (h : l[i]? = some e) (h' : (l.drop (i + 1))[j]? = some e') :
    l = l.take i ++ e :: ((l.drop (i + 1)).take j ++ e' :: (l.drop (i + 1)).drop (j + 1)) := by
  have split1 : ∀ (l : List PinEvent) (n : Nat) (a : PinEvent), l[n]? = some a → l = l.take n ++ a :: l.drop (n + 1) := by
    intro l n a ha
    obtain ⟨hn, rfl⟩ := List.getElem?_eq_some_iff.1 ha
    rw [List.cons_getElem_drop_succ, List.take_append_drop]
  conv_lhs => rw [split1 l i e h, split1 (l.drop (i + 1)) j e' h']

set_option maxRecDepth 8000 in
/-- A zero-set selection, and a selection in each mode. -/
theorem witness_InterByteTime_commands :
    ∀ cfg ∈ [fastZeroCfg, fastCfg, fastTurnCfg], configOk cfg = true ∧ ∃ before i body after,
      pinTrace (List.replicate 85 quiet) (poweredUp cfg quiet) = before ++ .csOn i :: (body ++ .csOff i :: after)
        ∧ .csOff i ∉ body ∧ countSelections before = 0 := by
  intro cfg h
  simp only [List.mem_cons, List.not_mem_nil, or_false] at h
  rcases h with rfl | rfl | rfl
  · exact ⟨by decide, _, 0, _, _, events_split _ 0 64 (.csOn 0) (.csOff 0) (by decide) (by decide), by decide, by decide⟩
  · exact ⟨by decide, _, 0, _, _, events_split _ 0 64 (.csOn 0) (.csOff 0) (by decide) (by decide), by decide, by decide⟩
  · exact ⟨by decide, _, 0, _, _, events_split _ 0 128 (.csOn 0) (.csOff 0) (by decide) (by decide), by decide, by decide⟩

/-- The trace of a multi-turn cycle's frame: four bytes. -/
def fastTurnTrace : List (ℚ × PinEvent) :=
  timedTrace 0 (List.replicate 72 quiet) (poweredUp fastTurnCfg quiet)

/-- A trace that splits at the select at place 0, the falling edge at place `i` and the rising edge `j` places after it. -/
theorem interByte_split (tr : List (ℚ × PinEvent)) (i j : Nat) (h0 : (tr.map Prod.snd)[0]? = some (.csOn 0))
    (h : ((tr.map Prod.snd).drop 1)[i]? = some .sclkFall)
    (h' : ((tr.map Prod.snd).drop (1 + (i + 1)))[j]? = some .sclkRise) :
    ∃ t0 t1 t2, tr = [] ++ (t0, .csOn 0) :: ((tr.drop 1).take i ++ (t1, .sclkFall)
      :: ((tr.drop (1 + (i + 1))).take j ++ (t2, .sclkRise) :: (tr.drop (1 + (i + 1))).drop (j + 1))) := by
  cases tr with
  | nil => simp at h0
  | cons a rest =>
    obtain ⟨t0, b⟩ := a
    obtain rfl : b = .csOn 0 := by simpa using h0
    have h'' : ((rest.map Prod.snd).drop (i + 1))[j]? = some .sclkRise := by
      simpa [Nat.add_comm, Nat.add_left_comm] using h'
    obtain ⟨t1, t2, h2⟩ := trace_split rest i j .sclkFall .sclkRise (by simpa using h) h''
    refine ⟨t0, t1, t2, ?_⟩
    rw [Nat.add_comm 1 (i + 1), List.drop_succ_cons, List.drop_succ_cons, List.drop_zero, List.nil_append, ← h2]

set_option maxRecDepth 8000 in
/-- Multi-turn mode: after the first byte (the eighth falling edge), the second (the sixteenth) and the third (the 24th). -/
theorem witness_InterByteTime :
    configOk fastTurnCfg = true ∧
    ∀ bits ∈ [8, 16, 24], ∃ before t0 i first t1 mid t2 after,
      timedTrace 0 (List.replicate 72 quiet) (poweredUp fastTurnCfg quiet)
          = before ++ (t0, .csOn i) :: (first ++ (t1, .sclkFall) :: (mid ++ (t2, .sclkRise) :: after))
        ∧ (∀ j, Without (.csOn j) (first ++ mid)) ∧ Without .sclkRise mid
        ∧ countEvents .sclkFall first + 1 = bits := by
  have selects : ∀ l : List (ℚ × PinEvent),
      (l.map Prod.snd).all (fun e => match e with | .csOn _ => false | _ => true) = true → ∀ j, Without (.csOn j) l := by
    intro l hl j x hx he
    have := List.all_eq_true.1 hl x.2 (List.mem_map_of_mem hx)
    rw [he] at this
    cases this
  refine ⟨by decide, fun bits hb => ?_⟩
  simp only [List.mem_cons, List.not_mem_nil, or_false] at hb
  rcases hb with rfl | rfl | rfl
  · obtain ⟨t0, t1, t2, h⟩ := interByte_split fastTurnTrace 31 1 (by decide) (by decide) (by decide)
    refine ⟨_, t0, _, _, t1, _, t2, _, h, selects _ ?_, without_of_events _ _ _ _ ?_, ?_⟩
    · rw [List.map_append, List.map_take, List.map_drop, List.map_take, List.map_drop]; decide
    · decide
    · rw [countEvents_of_events, List.map_take, List.map_drop]; decide
  · obtain ⟨t0, t1, t2, h⟩ := interByte_split fastTurnTrace 63 1 (by decide) (by decide) (by decide)
    refine ⟨_, t0, _, _, t1, _, t2, _, h, selects _ ?_, without_of_events _ _ _ _ ?_, ?_⟩
    · rw [List.map_append, List.map_take, List.map_drop, List.map_take, List.map_drop]; decide
    · decide
    · rw [countEvents_of_events, List.map_take, List.map_drop]; decide
  · obtain ⟨t0, t1, t2, h⟩ := interByte_split fastTurnTrace 95 1 (by decide) (by decide) (by decide)
    refine ⟨_, t0, _, _, t1, _, t2, _, h, selects _ ?_, without_of_events _ _ _ _ ?_, ?_⟩
    · rw [List.map_append, List.map_take, List.map_drop, List.map_take, List.map_drop]; decide
    · decide
    · rw [countEvents_of_events, List.map_take, List.map_drop]; decide

/-- The trace of the zero-set preamble of channel 0, and the first select of the first cycle. -/
def fastZeroTrace : List (ℚ × PinEvent) := timedTrace 0 (List.replicate 48 quiet) (poweredUp fastZeroCfg quiet)

set_option maxRecDepth 8000 in
theorem witness_ZeroSetCommitTime :
    configOk fastZeroCfg = true ∧ 0 < fastZeroCfg.fTick ∧
    ∃ before t1 i mid t2 j after,
      timedTrace 0 (List.replicate 48 quiet) (poweredUp fastZeroCfg quiet)
          = before ++ (t1, .csOff i) :: (mid ++ (t2, .csOn j) :: after)
        ∧ fastZeroCfg.zeroSetChannels.length > ((before.filter fun x => match x.2 with | .csOff _ => true | _ => false).length) := by
  refine ⟨by decide, by decide, ?_⟩
  obtain ⟨t1, t2, h⟩ := trace_split fastZeroTrace 65 0 (.csOff 0) (.csOn 0) (by decide) (by decide)
  refine ⟨_, t1, _, _, t2, _, _, h, ?_⟩
  have offs : ∀ l : List (ℚ × PinEvent),
      (l.map Prod.snd).all (fun e => match e with | .csOff _ => false | _ => true) = true →
        (l.filter fun x => match x.2 with | .csOff _ => true | _ => false) = [] := by
    intro l hl
    rw [List.filter_eq_nil_iff]
    intro x hx
    have := List.all_eq_true.1 hl x.2 (List.mem_map_of_mem hx)
    revert this
    cases x.2 <;> simp
  rw [offs _ (by rw [List.map_take]; decide)]
  decide

/-- The first XFER of the ROM at its start, with its channel selected. -/
theorem witness_ClockNeverFasterThanRate_exchange :
    fetch { selectedAt 0 0 with upc := 4 } = .run (.xfer .read false .position .hi)
      ∧ ({ selectedAt 0 0 with upc := 4 } : State).exchanging = false
      ∧ ({ selectedAt 0 0 with upc := 4 } : State).ch.toNat < ({ selectedAt 0 0 with upc := 4 } : State).cfg.n
      ∧ ({ selectedAt 0 0 with upc := 4 } : State).selected ({ selectedAt 0 0 with upc := 4 } : State).ch.toNat = true
      ∧ 0 < ({ selectedAt 0 0 with upc := 4 } : State).cfg.fAcq ∧ (List.replicate 16 quiet).length = 16 := by decide

set_option maxRecDepth 4000 in
/-- A rising edge and the falling edge after it; a falling edge and the next rising edge; MOSI and the rising edge. -/
theorem witness_ClockNeverFasterThanRate :
    (0 < fastCfg.fAcq ∧ 0 ≤ fastCfg.fTick) ∧
    (∃ before t1 mid t2 after, fastTrace = before ++ (t1, .sclkRise) :: (mid ++ (t2, .sclkFall) :: after))
      ∧ (∃ before t1 mid t2 after, fastTrace = before ++ (t1, .sclkFall) :: (mid ++ (t2, .sclkRise) :: after))
      ∧ (∃ before t1 b mid t2 after, fastTrace = before ++ (t1, .mosi b) :: (mid ++ (t2, .sclkRise) :: after)) := by
  obtain ⟨t1, t2, h⟩ := trace_split fastTrace 2 1 .sclkRise .sclkFall (by decide) (by decide)
  obtain ⟨t3, t4, h'⟩ := trace_split fastTrace 4 1 .sclkFall .sclkRise (by decide) (by decide)
  obtain ⟨t5, t6, h''⟩ := trace_split fastTrace 1 0 (.mosi false) .sclkRise (by decide) (by decide)
  exact ⟨by decide, ⟨_, t1, _, t2, _, h⟩, ⟨_, t3, _, t4, _, h'⟩, ⟨_, t5, _, _, t6, _, h''⟩⟩

end Sys2Proof.Tests
end

section
/-!
SUPPORT. The scope's own facts: how long the built ROM is (R690), R10's conditions one by one, and the fetch of a machine whose
configuration breaks them.
-/

namespace Sys2Proof.Machine

open Sys2Proof

/-! ### The length of the built ROM -/

@[simp] theorem length_zeroSetOps (c : Nat) : (zeroSetOps c).length = 10 := rfl

@[simp] theorem length_preambleOps (channels : List Nat) : (preambleOps channels).length = 10 * channels.length := by
  simp [preambleOps, List.length_flatMap, Nat.mul_comm]

@[simp] theorem length_bodyHead : bodyHead.length = 6 := rfl

@[simp] theorem length_bodyTail_singleTurn (base : Nat) : (bodyTail .singleTurn base).length = 11 := rfl

@[simp] theorem length_bodyTail_multiTurn (base : Nat) : (bodyTail .multiTurn base).length = 17 := rfl

theorem length_buildRom (cfg : Config) :
    (buildRom cfg).length = 10 * cfg.zeroSetChannels.length + (6 + (bodyTail cfg.mode (romBase cfg)).length) := by
  simp [buildRom, romOps]

theorem length_buildRom_singleTurn (cfg : Config) (h : cfg.mode = .singleTurn) :
    (buildRom cfg).length = 10 * cfg.zeroSetChannels.length + 17 := by
  simp [length_buildRom, h]

theorem length_buildRom_multiTurn (cfg : Config) (h : cfg.mode = .multiTurn) :
    (buildRom cfg).length = 10 * cfg.zeroSetChannels.length + 23 := by
  simp [length_buildRom, h]

/-- In either mode the body leaves room for 23 zero-set preambles below R10's 256 words, and for no more. -/
theorem length_buildRom_le_iff (cfg : Config) : (buildRom cfg).length ≤ 256 ↔ cfg.zeroSetChannels.length ≤ 23 := by
  cases h : cfg.mode with
  | singleTurn => have := length_buildRom_singleTurn cfg h; omega
  | multiTurn => have := length_buildRom_multiTurn cfg h; omega

/-! ### A configuration that meets R10, and one that does not -/

theorem delayTime_nonneg_iff (cfg : Config) :
    (∀ d, 0 ≤ delayTime cfg d) ↔
      0 ≤ cfg.tSettle ∧ 0 ≤ cfg.tTurn ∧ 0 ≤ cfg.tCycle ∧ 0 ≤ cfg.tHold ∧ 0 ≤ cfg.tCsIdle ∧ 0 ≤ cfg.tZero := by
  constructor
  · intro h
    exact ⟨h .settle, h .turn, h .cycle, h .hold, h .csIdle, h .zero⟩
  · rintro ⟨settle, turn, cycle, hold, csIdle, zero⟩ d
    cases d <;> assumption

/-- R10's conditions on the built ROM and on the delays, for the checks `configOk` makes in their place. -/
theorem configOk_iff (cfg : Config) :
    configOk cfg = true ↔
      (1 ≤ cfg.n ∧ cfg.n ≤ 256 ∧ cfg.selectPins.length = cfg.n ∧ cfg.indicatorPins.length = cfg.n
        ∧ (∀ c ∈ cfg.zeroSetChannels, c < cfg.n) ∧ cfg.zeroSetChannels.Nodup ∧ (buildRom cfg).length ≤ 256
        ∧ (∀ d, 0 ≤ delayTime cfg d) ∧ 0 < cfg.fAcq) := by
  rw [length_buildRom_le_iff, delayTime_nonneg_iff]
  simp only [configOk, Bool.and_eq_true, decide_eq_true_eq, beq_iff_eq, List.all_eq_true, and_assoc]

theorem fetch_eq_noRun_of_not_configOk (s : State) (h : configOk s.cfg = false) : fetch s = .noRun := by
  simp [fetch, h]

theorem step_refused_of_noRun (s : State) (h : fetch s = .noRun) : step s = .refused .illFormedConfig := by
  simp [step, sequencerStep, andThen, h]

end Sys2Proof.Machine
end

section
/-!
PROOFS. The obligations on the scope of the model (00_scope.md): what raising a fault records, and which configurations have a run.
-/

namespace Sys2Proof.Proofs

open Sys2Proof Sys2Proof.Machine

/-- Settles O10: the frame of `State.raise`, and what a fault set holds after an insertion. -/
theorem raiseRecordsOnlyTheFault : Obligations.RaiseRecordsOnlyTheFault := by
  intro s c
  exact ⟨raise_frame s c, FaultSet.has_insert s.fault c⟩

/-- Settles O35: `configOk` checks R10's conditions one by one (at most 23 zero-set channels stands for a ROM of at most 256 words),
and without them the fetch ends in `noRun`. -/
theorem illFormedConfigHasNoRun : Obligations.IllFormedConfigHasNoRun := by
  refine ⟨configOk_iff, fun s h => ?_⟩
  exact step_refused_of_noRun s (fetch_eq_noRun_of_not_configOk s h)

end Sys2Proof.Proofs
end

section
/-!
SUPPORT. What a micro-op and a step leave alone: the frame of every micro-op, which micro-ops own the fields that the invariants speak
of, how `FAULT` can change, and the principle by which an invariant of the sequencer is one of `step`.
-/

namespace Sys2Proof.Machine

open Sys2Proof

variable {i : Instr} {s t : State}

/-! ### The frame of every micro-op -/

theorem advance_after_frame {fs : List Field} {u : State} (h : OnlyWrites fs s u) :
    OnlyWrites (fs ++ [.upc, .upcCarry]) s u.advance := OnlyWrites.trans h (advance_frame u)

/-- A recorded model fault is within the frame of every micro-op that may fault. -/
theorem raise_frame_of_mem {fs : List Field} (s : State) (c : FaultCode) (h : .fault ∈ fs) : OnlyWrites fs s (s.raise c) :=
  OnlyWrites.mono (raise_frame s c) (by simpa using h)

theorem exec_xfer_frame {c : Command} {discard : Bool} {w : WordSel} {k : ByteSel}
    (h : exec (.xfer c discard w k) s = .next t) : OnlyWrites (writtenBy (.xfer c discard w k)) s t := by
  have fault : .fault ∈ writtenBy (.xfer c discard w k) := by simp [writtenBy]
  obtain ⟨-, -, rfl⟩ | ⟨-, -, -, rfl⟩ | ⟨-, -, -, -, -, rfl⟩ | ⟨-, -, -, -, rfl⟩ | ⟨-, -, -, rfl⟩ | ⟨x, -, -, -, rfl⟩
    | ⟨-, -, rfl⟩ | ⟨-, -, -, rfl⟩ | ⟨-, -, -, -, rfl⟩ | ⟨b, -, -, hd, -, rfl⟩ := exec_xfer_cases h
  · exact raise_frame_of_mem s _ fault
  · exact raise_frame_of_mem s _ fault
  · exact raise_frame_of_mem s _ fault
  · exact OnlyWrites.mono (clockRise_frame s _ _) (by simp [writtenBy])
  · exact raise_frame_of_mem s _ fault
  · exact OnlyWrites.mono (clockRise_frame s _ _) (by simp [writtenBy])
  · exact OnlyWrites.mono (clockFall_frame s) (by simp [writtenBy])
  · exact OnlyWrites.mono (advance_after_frame (clockFall_frame s)) (by simp [writtenBy])
  · exact raise_frame_of_mem s _ fault
  · exact OnlyWrites.mono (advance_after_frame (OnlyWrites.trans (clockFall_frame s) (putByte_frame _ w k b)))
      (by cases w <;> simp [writtenBy, hd])

/-- R212: a micro-op writes its own fields only, whether it completes, holds or faults. -/
theorem exec_frame (h : exec i s = .next t) : OnlyWrites (writtenBy i) s t := by
  cases i with
  | csa =>
    obtain ⟨-, rfl⟩ | ⟨-, -, rfl⟩ | ⟨-, -, rfl⟩ := exec_csa_cases h
    · exact raise_frame_of_mem s _ (by simp [writtenBy])
    · exact raise_frame_of_mem s _ (by simp [writtenBy])
    · exact OnlyWrites.mono (advance_after_frame (putCs_frame s _ _)) (by simp [writtenBy])
  | csd =>
    obtain ⟨-, rfl⟩ | ⟨-, -, rfl⟩ | ⟨-, -, rfl⟩ := exec_csd_cases h
    · exact raise_frame_of_mem s _ (by simp [writtenBy])
    · exact raise_frame_of_mem s _ (by simp [writtenBy])
    · exact OnlyWrites.mono (advance_after_frame (putCs_frame s _ _)) (by simp [writtenBy])
  | xfer c discard w k => exact exec_xfer_frame h
  | wait d =>
    obtain ⟨-, rfl⟩ | ⟨-, rfl⟩ := exec_wait_cases h
    · exact OnlyWrites.mono (advance_after_frame (putTimer_frame s _)) (by simp [writtenBy])
    · exact OnlyWrites.mono (putTimer_frame s _) (by simp [writtenBy])
  | chk w =>
    obtain ⟨-, rfl⟩ | ⟨-, -, rfl⟩ | ⟨x, -, -, rfl⟩ := exec_chk_cases h
    · exact raise_frame_of_mem s _ (by simp [writtenBy])
    · exact raise_frame_of_mem s _ (by simp [writtenBy])
    · exact OnlyWrites.mono (advance_after_frame (putValidity_frame s w _)) (by cases w <;> simp [writtenBy])
  | led =>
    obtain ⟨-, rfl⟩ | ⟨-, -, rfl⟩ | ⟨b, -, -, rfl⟩ := exec_led_cases h
    · exact raise_frame_of_mem s _ (by simp [writtenBy])
    · exact raise_frame_of_mem s _ (by simp [writtenBy])
    · exact OnlyWrites.mono (advance_after_frame (putIndicator_frame s _ _)) (by simp [writtenBy])
  | nrm w =>
    obtain ⟨-, rfl⟩ | ⟨-, -, rfl⟩ | ⟨-, -, -, rfl⟩ | ⟨x, v, -, -, -, -, rfl⟩ := exec_nrm_cases h
    · exact raise_frame_of_mem s _ (by simp [writtenBy])
    · exact raise_frame_of_mem s _ (by simp [writtenBy])
    · exact raise_frame_of_mem s _ (by simp [writtenBy])
    · exact OnlyWrites.mono (advance_after_frame (putReading_frame s w _ _ _)) (by cases w <;> simp [writtenBy])
  | chs n =>
    obtain ⟨-, rfl⟩ | ⟨-, rfl⟩ := exec_chs_cases h
    · exact raise_frame_of_mem s _ (by simp [writtenBy])
    · exact OnlyWrites.mono (advance_after_frame (putChannel_frame s _)) (by simp [writtenBy])
  | nxt a =>
    obtain ⟨-, rfl⟩ | ⟨-, rfl⟩ := exec_nxt_cases h
    · exact OnlyWrites.mono (OnlyWrites.trans (putChannel_frame s _) (jump_frame _ a)) (by simp [writtenBy])
    · exact OnlyWrites.mono (advance_frame s) (by simp [writtenBy])
  | jmp a =>
    obtain rfl := exec_jmp_cases h
    exact jump_frame s a
  | pub =>
    obtain ⟨-, -, rfl⟩ | ⟨-, -, rfl⟩ | ⟨-, -, -, rfl⟩ | ⟨-, -, -, rfl⟩ | ⟨-, -, -, rfl⟩ | ⟨-, -, -, rfl⟩ := exec_pub_cases h
    · exact OnlyWrites.mono (withdraw_frame s) (by simp [writtenBy])
    · exact OnlyWrites.refl _ _
    · exact OnlyWrites.refl _ _
    · exact OnlyWrites.mono (advance_after_frame (closeHandshake_frame s)) (by simp [writtenBy])
    · exact raise_frame_of_mem s _ (by simp [writtenBy])
    · exact OnlyWrites.mono (publish_frame s _) (by simp [writtenBy])
  | go =>
    obtain ⟨-, rfl⟩ | ⟨-, rfl⟩ := exec_go_cases h
    · exact raise_frame_of_mem s _ (by simp [writtenBy])
    · exact OnlyWrites.mono (advance_after_frame (startCycling_frame s)) (by simp [writtenBy])

/-! ### Which micro-op owns a field -/

/-- Every field but `upc`, its carry and `FAULT` is written by one kind of micro-op (`CS` and `CH` by two), or by none. -/
theorem owner_of_mem_writtenBy {f : Field} (hf : f ∈ writtenBy i) :
    f ∈ [.upc, .upcCarry, .fault]
      ∨ (f = .cs ∧ (i = .csa ∨ i = .csd))
      ∨ (f ∈ [.sclk, .mosi, .tx, .rx, .bitcnt] ∧ ∃ c discard w k, i = .xfer c discard w k)
      ∨ (f = .wbPosition ∧ ∃ c k, i = .xfer c false .position k)
      ∨ (f = .wbTurn ∧ ∃ c k, i = .xfer c false .turn k)
      ∨ (f = .timer ∧ ∃ d, i = .wait d)
      ∨ (f = .vPosition ∧ i = .chk .position)
      ∨ (f = .vTurn ∧ i = .chk .turn)
      ∨ (f ∈ [.led, .valid] ∧ i = .led)
      ∨ (f ∈ [.pos, .rawp] ∧ i = .nrm .position)
      ∨ (f ∈ [.turn, .rawt] ∧ i = .nrm .turn)
      ∨ (f = .ch ∧ ((∃ n, i = .chs n) ∨ ∃ a, i = .nxt a))
      ∨ (f ∈ [.pubBuf, .pubReq, .pubRelease] ∧ i = .pub)
      ∨ (f = .phase ∧ i = .go) := by
  cases i with
  | xfer c discard w k => cases discard <;> cases w <;> simp [writtenBy] at hf ⊢ <;> tauto
  | chk w => cases w <;> simp [writtenBy] at hf ⊢ <;> tauto
  | nrm w => cases w <;> simp [writtenBy] at hf ⊢ <;> tauto
  | _ => simp [writtenBy] at hf ⊢; tauto

theorem exec_parameters_eq (h : exec i s = .next t) : t.cfg = s.cfg ∧ t.rom = s.rom :=
  ⟨exec_frame h .cfg fun hf => by simpa using owner_of_mem_writtenBy hf,
    exec_frame h .rom fun hf => by simpa using owner_of_mem_writtenBy hf⟩

theorem exec_phase_eq (h : exec i s = .next t) (hi : i ≠ .go) : t.phase = s.phase :=
  exec_frame h .phase fun hf => by simpa [hi] using owner_of_mem_writtenBy hf

theorem exec_timer_eq (h : exec i s = .next t) (hi : ∀ d, i ≠ .wait d) : t.timer = s.timer :=
  exec_frame h .timer fun hf => by simpa [hi] using owner_of_mem_writtenBy hf

theorem exec_clock_eq (h : exec i s = .next t) (hi : ∀ c discard w k, i ≠ .xfer c discard w k) :
    t.sclk = s.sclk ∧ t.bitcnt = s.bitcnt :=
  ⟨exec_frame h .sclk fun hf => by simpa [hi] using owner_of_mem_writtenBy hf,
    exec_frame h .bitcnt fun hf => by simpa [hi] using owner_of_mem_writtenBy hf⟩

theorem exec_handshake_eq (h : exec i s = .next t) (hi : i ≠ .pub) :
    t.pubReq = s.pubReq ∧ t.pubRelease = s.pubRelease :=
  ⟨exec_frame h .pubReq fun hf => by simpa [hi] using owner_of_mem_writtenBy hf,
    exec_frame h .pubRelease fun hf => by simpa [hi] using owner_of_mem_writtenBy hf⟩

theorem exec_pubBuf_eq (h : exec i s = .next t) (hi : i ≠ .pub) : t.pubBuf = s.pubBuf :=
  exec_frame h .pubBuf fun hf => by simpa [hi] using owner_of_mem_writtenBy hf

theorem exec_readings_eq (h : exec i s = .next t) (hi : ∀ w, i ≠ .nrm w) : t.pos = s.pos ∧ t.turn = s.turn :=
  ⟨exec_frame h .pos fun hf => by simpa [hi] using owner_of_mem_writtenBy hf,
    exec_frame h .turn fun hf => by simpa [hi] using owner_of_mem_writtenBy hf⟩

/-! ### What a micro-op does to `FAULT` -/

/-- R694, R721: a micro-op leaves `FAULT` as it is, or records one code and writes nothing else. -/
theorem exec_fault_eq_or_raise (h : exec i s = .next t) : t.fault = s.fault ∨ ∃ c, t = s.raise c := by
  cases i with
  | csa => obtain ⟨-, rfl⟩ | ⟨-, -, rfl⟩ | ⟨-, -, rfl⟩ := exec_csa_cases h <;> simp
  | csd => obtain ⟨-, rfl⟩ | ⟨-, -, rfl⟩ | ⟨-, -, rfl⟩ := exec_csd_cases h <;> simp
  | xfer c discard w k =>
    obtain ⟨-, -, rfl⟩ | ⟨-, -, -, rfl⟩ | ⟨-, -, -, -, -, rfl⟩ | ⟨-, -, -, -, rfl⟩ | ⟨-, -, -, rfl⟩ | ⟨x, -, -, -, rfl⟩
      | ⟨-, -, rfl⟩ | ⟨-, -, -, rfl⟩ | ⟨-, -, -, -, rfl⟩ | ⟨b, -, -, -, -, rfl⟩ := exec_xfer_cases h <;> simp
  | wait d => exact .inl (exec_frame h .fault (by simp [writtenBy]))
  | chk w => obtain ⟨-, rfl⟩ | ⟨-, -, rfl⟩ | ⟨x, -, -, rfl⟩ := exec_chk_cases h <;> simp
  | led => obtain ⟨-, rfl⟩ | ⟨-, -, rfl⟩ | ⟨b, -, -, rfl⟩ := exec_led_cases h <;> simp
  | nrm w =>
    obtain ⟨-, rfl⟩ | ⟨-, -, rfl⟩ | ⟨-, -, -, rfl⟩ | ⟨x, v, -, -, -, -, rfl⟩ := exec_nrm_cases h <;> simp
  | chs n => obtain ⟨-, rfl⟩ | ⟨-, rfl⟩ := exec_chs_cases h <;> simp
  | nxt a => exact .inl (exec_frame h .fault (by simp [writtenBy]))
  | jmp a => exact .inl (exec_frame h .fault (by simp [writtenBy]))
  | pub =>
    obtain ⟨-, -, rfl⟩ | ⟨-, -, rfl⟩ | ⟨-, -, -, rfl⟩ | ⟨-, -, -, rfl⟩ | ⟨-, -, -, rfl⟩ | ⟨-, -, -, rfl⟩ :=
      exec_pub_cases h <;> simp
  | go => obtain ⟨-, rfl⟩ | ⟨-, rfl⟩ := exec_go_cases h <;> simp

theorem FaultSet.eq_of_has_insert {f : FaultSet} {c d : FaultCode} (h : (f.insert c).has d = true) (hd : f.has d = false) :
    d = c := by
  simpa [FaultSet.has_insert, hd] using h

theorem fault_eq_none_of_fetch_raises {c : FaultCode} (h : fetch s = .raises c) : s.fault = FaultSet.none := by
  by_contra hf
  unfold fetch at h
  cases hc : configOk s.cfg <;> simp [hc, hf] at h

theorem exec_phase_cycling (h : exec i s = .next t) (hp : s.phase = .cycling) : t.phase = .cycling := by
  by_cases hi : i = .go
  · subst hi
    obtain ⟨-, rfl⟩ | ⟨-, rfl⟩ := exec_go_cases h
    · exact hp
    · rfl
  · rw [exec_phase_eq h hi, hp]

/-- A step starts with an empty `FAULT` and records one code at most. -/
theorem sequencerStep_fault (h : sequencerStep s = .next t) :
    t.fault = FaultSet.none ∨ ∃ c, t.fault = FaultSet.none.insert c := by
  obtain ⟨c, hc, rfl⟩ | ⟨i, hi, he⟩ := sequencerStep_cases h
  · exact .inr ⟨c, by rw [State.raise_fault, fault_eq_none_of_fetch_raises hc]⟩
  · obtain ⟨-, hf, -⟩ := (fetch_run_iff i).1 hi
    obtain ht | ⟨c, rfl⟩ := exec_fault_eq_or_raise he
    · exact .inl (ht.trans hf)
    · exact .inr ⟨c, by rw [State.raise_fault, hf]⟩

/-! ### The environment's moves -/

theorem drive_frame (s : State) (inp : Inputs) : OnlyWrites [.miso, .mosi, .pubAck, .extraTicks] s (s.drive inp) := by
  intro f hf
  cases f <;> simp [Field.same] at hf ⊢

theorem environment_frame (s : State) : OnlyWrites [.miso, .mosi, .pubAck, .extraTicks, .draws] s s.environment := by
  intro f hf
  cases f <;> simp [Field.same] at hf ⊢

/-! ### Invariants of the sequencer are invariants of `step` -/

theorem sequencerStep_invariant {P : State → Prop} (raise : ∀ s c, P s → P (s.raise c))
    (exec_keeps : ∀ i s t, currentOp s = some i → P s → exec i s = .next t → P t)
    (hs : P s) (h : sequencerStep s = .next t) : P t := by
  obtain ⟨c, -, rfl⟩ | ⟨i, hi, he⟩ := sequencerStep_cases h
  · exact raise s c hs
  · obtain ⟨-, -, hop⟩ := (fetch_run_iff i).1 hi
    exact exec_keeps i s t hop hs he

/-- What raising a fault, every micro-op at `upc` and every move of the environment keep, a step keeps. -/
theorem step_invariant {P : State → Prop} (environment : ∀ s, P s → P s.environment) (raise : ∀ s c, P s → P (s.raise c))
    (exec_keeps : ∀ i s t, currentOp s = some i → P s → exec i s = .next t → P t)
    (hs : P s) (h : step s = .next t) : P t := by
  obtain ⟨u, hu, rfl⟩ := step_cases h
  exact environment u (sequencerStep_invariant raise exec_keeps hs hu)

end Sys2Proof.Machine
end

section
/-!
SUPPORT. The invariants of 10_state.md, micro-op by micro-op: the lengths of the arrays, the legality of the readings, the holds and
their owners, the turn word's state in SINGLE_TURN mode, and the width of `TIMER`.
-/

namespace Sys2Proof.Machine

open Sys2Proof

variable {i : Instr} {s t : State}

/-! ### The lengths of the arrays (R109) -/

/-- The fields `Shaped` speaks of. -/
def arrayFields : List Field := [.cfg, .cs, .led, .pos, .turn, .rawp, .rawt, .valid, .pubBuf]

theorem shaped_of_arrays_same (hs : Shaped s) (h : ∀ f ∈ arrayFields, f.same s t) : Shaped t := by
  simp only [arrayFields, List.forall_mem_cons, Field.same] at h
  obtain ⟨cfg, cs, led, pos, turn, rawp, rawt, valid, pubBuf, -⟩ := h
  simpa only [Shaped, cfg, cs, led, pos, turn, rawp, rawt, valid, pubBuf] using hs

theorem length_channelArray (s : State) : s.channelArray.length = s.cfg.n := by simp [State.channelArray]

theorem shaped_publish (hs : Shaped s) : Shaped (s.publish s.channelArray) := by
  obtain ⟨cs, led, pos, turn, rawp, rawt, valid, -⟩ := hs
  exact ⟨cs, led, pos, turn, rawp, rawt, valid, length_channelArray s⟩

theorem exec_keeps_shaped (h : exec i s = .next t) (hs : Shaped s) : Shaped t := by
  have unwritten (hw : ∀ f ∈ arrayFields, f ∉ writtenBy i) : Shaped t :=
    shaped_of_arrays_same hs fun f hf => exec_frame h f (hw f hf)
  cases i with
  | csa => obtain ⟨-, rfl⟩ | ⟨-, -, rfl⟩ | ⟨-, -, rfl⟩ := exec_csa_cases h <;> simpa [Shaped] using hs
  | csd => obtain ⟨-, rfl⟩ | ⟨-, -, rfl⟩ | ⟨-, -, rfl⟩ := exec_csd_cases h <;> simpa [Shaped] using hs
  | led => obtain ⟨-, rfl⟩ | ⟨-, -, rfl⟩ | ⟨b, -, -, rfl⟩ := exec_led_cases h <;> simpa [Shaped] using hs
  | nrm w =>
    obtain ⟨-, rfl⟩ | ⟨-, -, rfl⟩ | ⟨-, -, -, rfl⟩ | ⟨x, v, -, -, -, -, rfl⟩ := exec_nrm_cases h
    · exact hs
    · exact hs
    · exact hs
    · cases w <;> simpa [Shaped, State.putReading] using hs
  | pub =>
    obtain ⟨-, -, rfl⟩ | ⟨-, -, rfl⟩ | ⟨-, -, -, rfl⟩ | ⟨-, -, -, rfl⟩ | ⟨-, -, -, rfl⟩ | ⟨-, -, -, rfl⟩ := exec_pub_cases h
    · exact hs
    · exact hs
    · exact hs
    · exact hs
    · exact hs
    · exact shaped_publish hs
  | xfer c discard w k => exact unwritten (by cases w <;> simp [arrayFields, writtenBy])
  | chk w => exact unwritten (by cases w <;> simp [arrayFields, writtenBy])
  | _ => exact unwritten (by simp [arrayFields, writtenBy])

/-! ### Legal readings (R109) -/

/-- R552: the normalizer answers 14 data bits or the sentinel. -/
theorem legalReading_normalize (x : Word) (v : Bool) : LegalReading (normalize x v) := by
  cases v with
  | false => exact .inr rfl
  | true => exact .inl (by simpa [normalize] using Nat.and_le_right)

theorem mem_pos_of_mem_channelArray {x : Word} (hx : some x ∈ s.channelArray) : some x ∈ s.pos := by
  obtain ⟨j, -, hj⟩ := List.mem_map.1 hx
  rw [State.posAt, List.getD_eq_getElem?_getD, Option.getD_eq_iff] at hj
  obtain hj | ⟨-, hj⟩ := hj
  · exact List.mem_of_getElem? hj
  · cases hj

/-- A reading that NRM puts in an array comes from the normalizer. -/
theorem exec_nrm_mem {w : WordSel} {x : Word} (h : exec (.nrm w) s = .next t) (hx : some x ∈ t.pos ∨ some x ∈ t.turn) :
    (some x ∈ s.pos ∨ some x ∈ s.turn) ∨ LegalReading x := by
  obtain ⟨-, rfl⟩ | ⟨-, -, rfl⟩ | ⟨-, -, -, rfl⟩ | ⟨y, v, -, -, -, -, rfl⟩ := exec_nrm_cases h
  · exact .inl hx
  · exact .inl hx
  · exact .inl hx
  · have stored (l : List (Option Word)) (hl : some x ∈ l.set s.channel (some (normalize y v))) :
        some x ∈ l ∨ LegalReading x := by
      obtain hl | hl := List.mem_or_eq_of_mem_set hl
      · exact .inl hl
      · exact .inr (Option.some.inj hl ▸ legalReading_normalize y v)
    cases w with
    | position => exact hx.elim (fun hp => (stored _ hp).imp_left .inl) fun ht => .inl (.inr ht)
    | turn => exact hx.elim (fun hp => .inl (.inl hp)) fun ht => (stored _ ht).imp_left .inr

/-- A published entry was published before or is an entry of the channel array. -/
theorem exec_pub_mem {x : Word} (h : exec .pub s = .next t) (hx : some x ∈ t.pubBuf) :
    some x ∈ s.pubBuf ∨ some x ∈ s.pos := by
  obtain ⟨-, -, rfl⟩ | ⟨-, -, rfl⟩ | ⟨-, -, -, rfl⟩ | ⟨-, -, -, rfl⟩ | ⟨-, -, -, rfl⟩ | ⟨-, -, -, rfl⟩ := exec_pub_cases h
  · exact .inl hx
  · exact .inl hx
  · exact .inl hx
  · exact .inl hx
  · exact .inl hx
  · exact .inr (mem_pos_of_mem_channelArray hx)

theorem exec_keeps_readingsLegal (h : exec i s = .next t) (hs : ReadingsLegal s) : ReadingsLegal t := by
  have arrays {x : Word} (hx : some x ∈ t.pos ∨ some x ∈ t.turn) : LegalReading x := by
    by_cases hi : ∃ w, i = .nrm w
    · obtain ⟨w, rfl⟩ := hi
      exact (exec_nrm_mem h hx).elim (fun hx => hs x (or_assoc.1 (.inl hx))) id
    · obtain ⟨hpos, hturn⟩ := exec_readings_eq h (not_exists.1 hi)
      rw [hpos, hturn] at hx
      exact hs x (or_assoc.1 (.inl hx))
  have published {x : Word} (hx : some x ∈ t.pubBuf) : LegalReading x := by
    by_cases hi : i = .pub
    · subst hi
      exact hs x ((exec_pub_mem h hx).elim (fun hb => .inr (.inr hb)) .inl)
    · exact hs x (.inr (.inr (exec_pubBuf_eq h hi ▸ hx)))
  exact fun x hx => (or_assoc.2 hx).elim arrays published

/-! ### The holds and their owners (R111, R217, R731) -/

/-- An XFER whose checks have passed is at `upc`, and the shifter's registers are written. -/
def ExchangeOwned (s : State) : Prop :=
  ∃ c discard w k, currentOp s = some (.xfer c discard w k)
    ∧ s.channelOk = true ∧ s.selected s.channel = true ∧ (discard = false → turnForbidden s.cfg w = false)
    ∧ s.tx.isSome = true ∧ s.rx.isSome = true

theorem holdsOwned_iff (s : State) :
    HoldsOwned s ↔ (s.exchanging = true → ExchangeOwned s) ∧ (s.timer ≠ 0 → ∃ d, currentOp s = some (.wait d))
      ∧ (s.pubReq = true ∨ s.pubRelease = true → currentOp s = some .pub)
      ∧ ¬ (s.pubReq = true ∧ s.pubRelease = true) ∧ s.bitcnt ≤ 8 ∧ (s.sclk = true → s.bitcnt < 8) := Iff.rfl

theorem sclk_eq_false_of_idle_bus (h : s.exchanging = false) : s.sclk = false := by
  by_contra hc
  simp [s.exchanging_of_sclk (by simpa using hc)] at h

/-- With no exchange on the bus, the timer and the handshake are what a micro-op must own. -/
theorem holdsOwned_of_idle_bus (hidle : s.exchanging = false) (hbitcnt : s.bitcnt ≤ 8)
    (htimer : s.timer ≠ 0 → ∃ d, currentOp s = some (.wait d))
    (hhandshake : s.pubReq = true ∨ s.pubRelease = true → currentOp s = some .pub)
    (hphase : ¬ (s.pubReq = true ∧ s.pubRelease = true)) : HoldsOwned s := by
  exact ⟨by simp [hidle], htimer, hhandshake, hphase, hbitcnt, by simp [sclk_eq_false_of_idle_bus hidle]⟩

/-- During an exchange no other hold goes on. -/
theorem holdsOwned_of_exchange (hx : ExchangeOwned s) (hbitcnt : s.bitcnt < 8) (htimer : s.timer = 0)
    (hreq : s.pubReq = false) (hrelease : s.pubRelease = false) : HoldsOwned s :=
  ⟨fun _ => hx, by simp [htimer], by simp [hreq, hrelease], by simp [hreq], hbitcnt.le, fun _ => hbitcnt⟩

theorem exchanging_eq_false_of_owned (hs : HoldsOwned s) (hop : currentOp s = some i)
    (hi : ∀ c discard w k, i ≠ .xfer c discard w k) : s.exchanging = false := by
  obtain ⟨exchange, -⟩ := hs
  by_contra he
  obtain ⟨c, discard, w, k, hop', -⟩ := exchange (by simpa using he)
  exact hi c discard w k (Option.some.inj (hop.symm.trans hop'))

theorem timer_eq_zero_of_owned (hs : HoldsOwned s) (hop : currentOp s = some i) (hi : ∀ d, i ≠ .wait d) : s.timer = 0 := by
  obtain ⟨-, timer, -⟩ := hs
  by_contra ht
  obtain ⟨d, hop'⟩ := timer ht
  exact hi d (Option.some.inj (hop.symm.trans hop'))

theorem handshake_eq_false_of_owned (hs : HoldsOwned s) (hop : currentOp s = some i) (hi : i ≠ .pub) :
    s.pubReq = false ∧ s.pubRelease = false := by
  obtain ⟨-, -, handshake, -⟩ := hs
  have no (hp : s.pubReq = true ∨ s.pubRelease = true) : False :=
    hi (Option.some.inj (hop.symm.trans (handshake hp)))
  exact ⟨by simpa using fun hp => no (.inl hp), by simpa using fun hp => no (.inr hp)⟩

theorem bitcnt_le_of_owned (hs : HoldsOwned s) : s.bitcnt ≤ 8 := by
  obtain ⟨-, -, -, -, hb, -⟩ := hs
  exact hb

/-- A micro-op that is none of the three that hold finds no hold, and begins none. -/
theorem exec_keeps_holdsOwned_of_no_hold (hop : currentOp s = some i) (hs : HoldsOwned s) (h : exec i s = .next t)
    (hx : ∀ c discard w k, i ≠ .xfer c discard w k) (hw : ∀ d, i ≠ .wait d) (hp : i ≠ .pub) : HoldsOwned t := by
  obtain ⟨hsclk, hbitcnt⟩ := exec_clock_eq h hx
  have hidle : t.exchanging = false := by
    rw [State.exchanging, hsclk, hbitcnt]; exact exchanging_eq_false_of_owned hs hop hx
  have htimer : t.timer = 0 := (exec_timer_eq h hw).trans (timer_eq_zero_of_owned hs hop hw)
  have hhandshake : t.pubReq = false ∧ t.pubRelease = false := by
    obtain ⟨hreq, hrelease⟩ := exec_handshake_eq h hp
    rw [hreq, hrelease]; exact handshake_eq_false_of_owned hs hop hp
  exact holdsOwned_of_idle_bus hidle (hbitcnt ▸ bitcnt_le_of_owned hs) (by simp [htimer]) (by simp [hhandshake])
    (by simp [hhandshake])

theorem exec_wait_keeps_holdsOwned {d : Delay} (hop : currentOp s = some (.wait d)) (hs : HoldsOwned s)
    (h : exec (.wait d) s = .next t) : HoldsOwned t := by
  have hidle := exchanging_eq_false_of_owned hs hop (by simp)
  obtain ⟨hreq, hrelease⟩ := handshake_eq_false_of_owned hs hop (by simp)
  have hbitcnt := bitcnt_le_of_owned hs
  obtain ⟨-, rfl⟩ | ⟨-, rfl⟩ := exec_wait_cases h
  · exact holdsOwned_of_idle_bus hidle hbitcnt (by simp) (by simp [hreq, hrelease]) (by simp [hreq])
  · exact holdsOwned_of_idle_bus hidle hbitcnt (fun _ => ⟨d, hop⟩) (by simp [hreq, hrelease]) (by simp [hreq])

theorem exec_pub_keeps_holdsOwned (hop : currentOp s = some .pub) (hs : HoldsOwned s) (h : exec .pub s = .next t) :
    HoldsOwned t := by
  have hidle := exchanging_eq_false_of_owned hs hop (by simp)
  have htimer := timer_eq_zero_of_owned hs hop (by simp)
  have hbitcnt := bitcnt_le_of_owned hs
  obtain ⟨-, -, rfl⟩ | ⟨-, -, rfl⟩ | ⟨-, -, -, rfl⟩ | ⟨hreq, -, -, rfl⟩ | ⟨-, -, -, rfl⟩ | ⟨-, hrelease, -, rfl⟩ :=
    exec_pub_cases h
  · exact holdsOwned_of_idle_bus hidle hbitcnt (by simp [htimer]) (fun _ => hop) (by simp)
  · exact hs
  · exact hs
  · exact holdsOwned_of_idle_bus hidle hbitcnt (by simp [htimer]) (by simp [hreq]) (by simp)
  · exact hs
  · exact holdsOwned_of_idle_bus hidle hbitcnt (by simp [htimer]) (fun _ => hop) (by simp [hrelease])

theorem exchanging_clockFall_last (h7 : 7 ≤ s.bitcnt) : s.clockFall.exchanging = false := by
  rw [← Bool.not_eq_true]
  simp [State.exchanging]
  omega

theorem exec_xfer_keeps_holdsOwned {c : Command} {discard : Bool} {w : WordSel} {k : ByteSel}
    (hop : currentOp s = some (.xfer c discard w k)) (hs : HoldsOwned s) (h : exec (.xfer c discard w k) s = .next t) :
    HoldsOwned t := by
  have htimer := timer_eq_zero_of_owned hs hop (by simp)
  obtain ⟨hreq, hrelease⟩ := handshake_eq_false_of_owned hs hop (by simp)
  obtain ⟨exchange, -, -, -, -, clock⟩ := (holdsOwned_iff s).1 hs
  obtain ⟨-, -, rfl⟩ | ⟨-, -, -, rfl⟩ | ⟨-, -, -, -, -, rfl⟩ | ⟨-, hch, hsel, hmode, rfl⟩ | ⟨-, -, -, rfl⟩
    | ⟨x, hc, he, -, rfl⟩ | ⟨hc, h7, rfl⟩ | ⟨hc, h7, -, rfl⟩ | ⟨-, -, -, -, rfl⟩ | ⟨b, hc, h7, -, -, rfl⟩ :=
    exec_xfer_cases h
  · exact hs
  · exact hs
  · exact hs
  · have owned : ExchangeOwned (s.clockRise (commandByte s.cfg c) 0) :=
      ⟨c, discard, w, k, hop, hch, hsel, fun hd => hmode.resolve_left (by simp [hd]), rfl, rfl⟩
    exact holdsOwned_of_exchange owned (by simp) htimer hreq hrelease
  · exact hs
  · obtain ⟨c', discard', w', k', hop', hch, hsel, hmode, -⟩ := exchange he
    have owned : ExchangeOwned (s.clockRise x s.bitcnt) := ⟨c', discard', w', k', hop', hch, hsel, hmode, rfl, rfl⟩
    have hb : s.bitcnt < 8 := by simp_all [State.exchanging]
    exact holdsOwned_of_exchange owned hb htimer hreq hrelease
  · exact holdsOwned_of_exchange (exchange (s.exchanging_of_sclk hc)) (by simp; omega) htimer hreq hrelease
  · exact holdsOwned_of_idle_bus (exchanging_clockFall_last h7) (clock hc) (by simp [htimer]) (by simp [hreq, hrelease])
      (by simp [hreq])
  · exact hs
  · exact holdsOwned_of_idle_bus (by simpa using exchanging_clockFall_last h7) (by simpa using clock hc)
      (by simp [htimer]) (by simp [hreq, hrelease]) (by simp [hreq])

theorem exec_keeps_holdsOwned (hop : currentOp s = some i) (hs : HoldsOwned s) (h : exec i s = .next t) : HoldsOwned t := by
  cases i with
  | xfer c discard w k => exact exec_xfer_keeps_holdsOwned hop hs h
  | wait d => exact exec_wait_keeps_holdsOwned hop hs h
  | pub => exact exec_pub_keeps_holdsOwned hop hs h
  | _ => exact exec_keeps_holdsOwned_of_no_hold hop hs h (by simp) (by simp) (by simp)

/-! ### The turn word's state in SINGLE_TURN mode (R109, R310) -/

/-- The fields `TurnUnused` speaks of. -/
def turnFields : List Field := [.cfg, .wbTurn, .vTurn, .turn, .rawt]

theorem turnUnused_of_same (hs : TurnUnused s) (h : ∀ f ∈ turnFields, f.same s t) : TurnUnused t := by
  simp only [turnFields, List.forall_mem_cons, Field.same] at h
  obtain ⟨cfg, wbTurn, vTurn, turn, rawt, -⟩ := h
  simpa only [TurnUnused, cfg, wbTurn, vTurn, turn, rawt] using hs

theorem turnFields_writtenBy {f : Field} (hf : f ∈ turnFields) (hw : f ∈ writtenBy i) :
    (∃ c k, i = .xfer c false .turn k) ∨ i = .chk .turn ∨ i = .nrm .turn := by
  have owner := owner_of_mem_writtenBy hw
  simp only [turnFields, List.mem_cons, List.not_mem_nil, or_false] at hf
  obtain rfl | rfl | rfl | rfl | rfl := hf <;> simp at owner <;> simp [owner]

/-- An XFER that the mode check shuts out is never in the middle of its exchange. -/
theorem exchanging_eq_false_of_turnForbidden {c : Command} {w : WordSel} {k : ByteSel}
    (hop : currentOp s = some (.xfer c false w k)) (hs : HoldsOwned s) (hf : turnForbidden s.cfg w = true) :
    s.exchanging = false := by
  obtain ⟨exchange, -⟩ := hs
  by_contra he
  obtain ⟨c', discard, w', k', hop', -, -, hmode, -⟩ := exchange (by simpa using he)
  obtain ⟨-, rfl, rfl, -⟩ : c = c' ∧ false = discard ∧ w = w' ∧ k = k' := by simpa using hop.symm.trans hop'
  simp [hmode rfl] at hf

/-- R310: in SINGLE_TURN mode a micro-op that would write the turn word's state raises a fault. -/
theorem exec_turnOperand_raises (hop : currentOp s = some i) (hs : HoldsOwned s) (h : exec i s = .next t)
    (hm : s.cfg.mode = .singleTurn) (hi : (∃ c k, i = .xfer c false .turn k) ∨ i = .chk .turn ∨ i = .nrm .turn) :
    ∃ c, t = s.raise c := by
  have forbidden : turnForbidden s.cfg .turn = true := (turnForbidden_iff _ _).2 ⟨rfl, hm⟩
  obtain ⟨c, k, rfl⟩ | rfl | rfl := hi
  · have hidle := exchanging_eq_false_of_turnForbidden hop hs forbidden
    have hclock := sclk_eq_false_of_idle_bus hidle
    obtain ⟨-, -, ht⟩ | ⟨-, -, -, ht⟩ | ⟨-, -, -, -, -, ht⟩ | h' := exec_xfer_cases h
    · exact ⟨_, ht⟩
    · exact ⟨_, ht⟩
    · exact ⟨_, ht⟩
    · simp [hidle, hclock, forbidden] at h'
  · obtain ⟨-, ht⟩ | ⟨-, -, ht⟩ | ⟨x, hf, -⟩ := exec_chk_cases h
    · exact ⟨_, ht⟩
    · exact ⟨_, ht⟩
    · simp [hf] at forbidden
  · obtain ⟨-, ht⟩ | ⟨-, -, ht⟩ | ⟨-, -, -, ht⟩ | ⟨x, v, -, hf, -⟩ := exec_nrm_cases h
    · exact ⟨_, ht⟩
    · exact ⟨_, ht⟩
    · exact ⟨_, ht⟩
    · simp [hf] at forbidden

theorem exec_keeps_turnUnused (hop : currentOp s = some i) (ho : HoldsOwned s) (hs : TurnUnused s)
    (h : exec i s = .next t) : TurnUnused t := by
  intro hm
  obtain ⟨hcfg, -⟩ := exec_parameters_eq h
  rw [hcfg] at hm
  by_cases hi : (∃ c k, i = .xfer c false .turn k) ∨ i = .chk .turn ∨ i = .nrm .turn
  · obtain ⟨c, rfl⟩ := exec_turnOperand_raises hop ho h hm hi
    exact hs hm
  · exact turnUnused_of_same hs (fun f hf => exec_frame h f fun hw => hi (turnFields_writtenBy hf hw)) (hcfg ▸ hm)

/-! ### The width of `TIMER` (R113, log 17) -/

theorem mem_rom_of_currentOp (h : currentOp s = some i) : Decoded.ok i ∈ s.rom.map decodeWord := by
  unfold currentOp at h
  split at h
  · cases h
  · split at h
    · cases h
    · rename_i u hu
      split at h
      · rename_i j hj
        cases h
        exact List.mem_map.2 ⟨u, List.mem_of_getElem? hu, hj⟩
      · cases h

theorem exec_keeps_timer_in_width (hop : currentOp s = some i) (hfit : WaitsFit s)
    (ht : s.timer < 2 ^ s.cfg.timerWidth) (h : exec i s = .next t) : t.timer < 2 ^ t.cfg.timerWidth := by
  obtain ⟨hcfg, -⟩ := exec_parameters_eq h
  rw [hcfg]
  by_cases hi : ∃ d, i = .wait d
  · obtain ⟨d, rfl⟩ := hi
    have hload := loadTicks_lt s.cfg d s.extraTicks (hfit d (mem_rom_of_currentOp hop))
    obtain ⟨-, rfl⟩ | ⟨-, rfl⟩ := exec_wait_cases h
    · exact Nat.two_pow_pos _
    · simp only [State.putTimer_timer]
      split <;> omega
  · rw [exec_timer_eq h (not_exists.1 hi)]
    exact ht

theorem waitsFit_of_parameters_eq (h : t.cfg = s.cfg ∧ t.rom = s.rom) (hs : WaitsFit s) : WaitsFit t := by
  obtain ⟨hcfg, hrom⟩ := h
  simpa only [WaitsFit, hcfg, hrom] using hs

/-- R691, R692: no body waits `T_ZERO`. -/
theorem no_zeroWait_in_body (mode : Mode) :
    Decoded.ok (.wait .zero) ∉ ((bodyHead ++ bodyTail mode 0).map encode).map decodeWord := by
  cases mode <;> decide

theorem no_zeroWait_without_zeroSet (cfg : Config) (h : cfg.zeroSetChannels = []) :
    Decoded.ok (.wait .zero) ∉ (buildRom cfg).map decodeWord := by
  simpa [buildRom, romOps, romBase, preambleOps, h] using no_zeroWait_in_body cfg.mode

theorem waitTicks_le_neededTicks (cfg : Config) (d : Delay) (h : cfg.zeroSetChannels = []) (hd : d ≠ .zero) :
    waitTicks cfg d ≤ cfg.neededTicks := by
  cases d <;> simp [waitTicks, delayTime, Config.neededTicks, h] at hd ⊢

theorem neededTicks_of_zeroSet (cfg : Config) (h : cfg.zeroSetChannels ≠ []) : cfg.neededTicks = waitTicks cfg .zero := by
  simp [Config.neededTicks, h, waitTicks, delayTime]

theorem waitsFit_poweredUp (cfg : Config) (inp : Inputs) (hw : cfg.neededTicks < 2 ^ cfg.timerWidth)
    (hz : cfg.zeroSetChannels ≠ [] → ∀ d, waitTicks cfg d ≤ waitTicks cfg .zero) : WaitsFit (poweredUp cfg inp) := by
  intro d hd
  refine lt_of_le_of_lt ?_ hw
  by_cases h : cfg.zeroSetChannels = []
  · have hne : d ≠ .zero := by
      rintro rfl
      exact no_zeroWait_without_zeroSet cfg h hd
    exact waitTicks_le_neededTicks cfg d h hne
  · rw [neededTicks_of_zeroSet cfg h]
    exact hz h d

/-- A timer with one bit more than the binary logarithm of the count R113 names holds that count. -/
theorem neededTicks_lt_of_widened {cfg cfg' : Config} {extra : Nat}
    (h : cfg' = { cfg with timerWidth := Nat.log2 cfg.neededTicks + 1 + extra }) :
    cfg'.neededTicks < 2 ^ cfg'.timerWidth := by
  subst h
  calc cfg.neededTicks < 2 ^ (Nat.log2 cfg.neededTicks + 1) := Nat.lt_log2_self
    _ ≤ 2 ^ (Nat.log2 cfg.neededTicks + 1 + extra) := Nat.pow_le_pow_right Nat.two_pos (Nat.le_add_right _ _)

theorem reset_eq_poweredUp : State.reset = poweredUp Config.board (Config.freeInputs 0) := rfl

theorem timer_poweredUp_lt (cfg : Config) (inp : Inputs) :
    (poweredUp cfg inp).timer < 2 ^ (poweredUp cfg inp).cfg.timerWidth := Nat.two_pow_pos _

theorem reset_timer_in_width : WaitsFit State.reset ∧ State.reset.timer < 2 ^ State.reset.cfg.timerWidth := by
  have width : Config.board.neededTicks < 2 ^ Config.board.timerWidth :=
    neededTicks_lt_of_widened (cfg := Config.defaults) rfl
  have noZeroSet : Config.board.zeroSetChannels = [] := rfl
  rw [reset_eq_poweredUp]
  exact ⟨waitsFit_poweredUp _ _ width (absurd noZeroSet), timer_poweredUp_lt _ _⟩

end Sys2Proof.Machine
end

section
/-!
PROOFS. The obligations on the state (10_state.md): the invariants every step keeps, the environment's ports, and the levels on the
select and indicator pins.
-/

namespace Sys2Proof.Proofs

open Sys2Proof Sys2Proof.Machine

/-- Settles O41: only CSA, CSD, LED, NRM and PUB write register arrays, and they write entries or a copy of N entries. -/
theorem stepKeepsArrayLengths : Obligations.StepKeepsArrayLengths := by
  intro s t
  exact step_invariant (fun _ hs => hs) (fun _ _ hs => hs) fun _ _ _ _ hs h => exec_keeps_shaped h hs

/-- Settles O43: NRM stores what the normalizer answers, and PUB publishes entries of the channel array. -/
theorem stepKeepsReadingsLegal : Obligations.StepKeepsReadingsLegal := by
  intro s t
  exact step_invariant (fun _ hs => hs) (fun _ _ hs => hs) fun _ _ _ _ hs h => exec_keeps_readingsLegal h hs

/-- Settles O44: the micro-op at `upc` is the only one that can begin or go on with a hold, and it is still there while it holds. -/
theorem stepKeepsHoldsOwned : Obligations.StepKeepsHoldsOwned := by
  intro s t
  exact step_invariant (fun _ hs => hs) (fun _ _ hs => hs) fun _ _ _ hop hs h => exec_keeps_holdsOwned hop hs h

/-- Settles O45: in SINGLE_TURN mode a micro-op that would write the turn word's state faults instead; an exchange for the turn word,
which would no longer check the mode, is shut out by `HoldsOwned`. -/
theorem singleTurnNeverWritesTurnState : Obligations.SingleTurnNeverWritesTurnState := by
  intro s t ho hs h
  obtain ⟨-, kept⟩ : HoldsOwned t ∧ TurnUnused t :=
    step_invariant (P := fun u => HoldsOwned u ∧ TurnUnused u) (fun _ hs => hs) (fun _ _ hs => hs)
      (fun _ _ _ hop ⟨ho, hs⟩ h => ⟨exec_keeps_holdsOwned hop ho h, exec_keeps_turnUnused hop ho hs h⟩) ⟨ho, hs⟩ h
  exact kept

/-- Settles O46: a WAIT loads at most what `TIMER` holds, and counts down from there. -/
theorem stepKeepsTimerInWidth : Obligations.StepKeepsTimerInWidth := by
  refine ⟨fun s t hfit ht h => ?_, fun cfg inp hw hz => ?_, reset_timer_in_width⟩
  · exact step_invariant (P := fun u => WaitsFit u ∧ u.timer < 2 ^ u.cfg.timerWidth) (fun _ hs => hs) (fun _ _ hs => hs)
      (fun _ _ _ hop ⟨hfit, ht⟩ h =>
        ⟨waitsFit_of_parameters_eq (exec_parameters_eq h) hfit, exec_keeps_timer_in_width hop hfit ht h⟩) ⟨hfit, ht⟩ h
  · exact ⟨waitsFit_poweredUp cfg inp hw hz, timer_poweredUp_lt cfg inp⟩

/-- Settles O48: a micro-op leaves `FAULT` alone or is `State.raise`; a step starts with an empty `FAULT`; GO alone writes `PHASE`. -/
theorem faultsAndCyclingPersist : Obligations.FaultsAndCyclingPersist := by
  refine ⟨fun i s t h => ⟨?_, ?_, exec_phase_cycling h⟩, fun s t h => ⟨?_, ?_⟩⟩
  · intro c hc
    obtain hf | ⟨c', rfl⟩ := exec_fault_eq_or_raise h
    · rwa [hf]
    · simp [FaultSet.has_insert, hc]
  · intro c d hc hd hc0 hd0
    obtain hf | ⟨c', rfl⟩ := exec_fault_eq_or_raise h
    · simp [← hf, hc] at hc0
    · exact (FaultSet.eq_of_has_insert hc hc0).trans (FaultSet.eq_of_has_insert hd hd0).symm
  · intro c d hc hd
    obtain ⟨u, hu, rfl⟩ := step_cases h
    rw [State.environment_fault] at hc hd
    obtain hf | ⟨c', hf⟩ := sequencerStep_fault hu
    · simp [hf, FaultSet.has_none] at hc
    · rw [hf] at hc hd
      exact (FaultSet.eq_of_has_insert hc (FaultSet.has_none c)).trans
        (FaultSet.eq_of_has_insert hd (FaultSet.has_none d)).symm
  · intro hp
    exact step_invariant (P := fun u => u.phase = .cycling) (fun _ hs => hs) (fun _ _ hs => hs)
      (fun _ _ _ _ hs h => exec_phase_cycling h hs) hp h

/-- Settles O36: the environment's moves are `State.drive`, which writes the inputs, the undriven `MOSI` and the model's own fields. -/
theorem environmentKeepsToItsPorts : Obligations.EnvironmentKeepsToItsPorts := by
  intro s inp
  refine ⟨drive_frame s inp, ?_, ?_, environment_frame s, ?_, ?_⟩
  · intro he; simp [he]
  · intro hreq hack; simp [hreq, hack]
  · intro he; simp [he]
  · intro hreq hack; simp [hreq, hack]

/-- Settles O37: a select pin carries the active level or its negation, as `CS[i]` says; an indicator pin carries `LED[i]` itself. -/
theorem pinsFollowSelectAndIndicator : Obligations.PinsFollowSelectAndIndicator := by
  intro s i
  refine ⟨?_, ?_, Iff.rfl⟩
  · intro h; exact if_pos h
  · intro h; simp [State.selectLevel, h]

/-- Settles O47: no micro-op owns the configuration or the ROM, and neither does a fault or the environment. -/
theorem stepNeverWritesParameters : Obligations.StepNeverWritesParameters := by
  intro s t
  exact step_invariant (P := fun u => u.cfg = s.cfg ∧ u.rom = s.rom) (fun _ hs => hs) (fun _ _ hs => hs)
    (fun _ _ _ _ ⟨hcfg, hrom⟩ h => by
      obtain ⟨hcfg', hrom'⟩ := exec_parameters_eq h
      exact ⟨hcfg'.trans hcfg, hrom'.trans hrom⟩) ⟨rfl, rfl⟩

end Sys2Proof.Proofs
end

section
/-!
SUPPORT. The storage of 20_memory.md: the entries of the channel arrays other than the current channel's, and the published array.
-/

namespace Sys2Proof.Machine

open Sys2Proof

variable {i : Instr} {s t : State}

/-! ### The channel arrays away from `CH` (R203) -/

/-- The seven arrays that hold one entry for each channel. -/
def channelFields : List Field := [.cs, .led, .valid, .pos, .turn, .rawp, .rawt]

/-- Entry `j` of every channel array has the same value in both states. -/
def SameEntries (j : Nat) (s t : State) : Prop :=
  t.selected j = s.selected j ∧ t.lit j = s.lit j ∧ t.validAt j = s.validAt j ∧ t.posAt j = s.posAt j
    ∧ t.turnAt j = s.turnAt j ∧ t.rawpAt j = s.rawpAt j ∧ t.rawtAt j = s.rawtAt j

theorem sameEntries_of_channelFields_same (j : Nat) (h : ∀ f ∈ channelFields, f.same s t) : SameEntries j s t := by
  simp only [channelFields, List.forall_mem_cons, Field.same] at h
  obtain ⟨cs, led, valid, pos, turn, rawp, rawt, -⟩ := h
  simp only [SameEntries, State.selected, State.lit, State.validAt, State.posAt, State.turnAt, State.rawpAt, State.rawtAt,
    cs, led, valid, pos, turn, rawp, rawt, and_self]

theorem sameEntries_raise (j : Nat) (s : State) (c : FaultCode) : SameEntries j s (s.raise c) :=
  ⟨rfl, rfl, rfl, rfl, rfl, rfl, rfl⟩

theorem sameEntries_putCs_advance {j n : Nat} (s : State) (b : Bool) (hj : j ≠ n) : SameEntries j s (s.putCs n b).advance :=
  ⟨s.selected_putCs_ne n j b hj, rfl, rfl, rfl, rfl, rfl, rfl⟩

theorem sameEntries_putIndicator_advance {j n : Nat} (s : State) (b : Bool) (hj : j ≠ n) :
    SameEntries j s (s.putIndicator n b).advance :=
  ⟨rfl, s.lit_putIndicator_ne n j b hj, s.validAt_putIndicator_ne n j b hj, rfl, rfl, rfl, rfl⟩

theorem sameEntries_putReading_advance {j n : Nat} (s : State) (w : WordSel) (r x : Word) (hj : j ≠ n) :
    SameEntries j s (s.putReading w n r x).advance := by
  obtain ⟨pos, rawp, turn, rawt⟩ := s.readingsAt_putReading_ne w n j r x hj
  exact ⟨s.putReading_selected w n r x j, s.putReading_lit w n r x j, s.putReading_validAt w n r x j, pos, turn, rawp, rawt⟩

/-- R203: CSA, CSD, LED and NRM write the entry of channel `CH`; no other micro-op writes a channel array. -/
theorem exec_keeps_entries_of_other_channels {j : Nat} (h : exec i s = .next t) (hj : j ≠ s.channel) : SameEntries j s t := by
  have unwritten (hw : ∀ f ∈ channelFields, f ∉ writtenBy i) : SameEntries j s t :=
    sameEntries_of_channelFields_same j fun f hf => exec_frame h f (hw f hf)
  cases i with
  | csa =>
    obtain ⟨-, rfl⟩ | ⟨-, -, rfl⟩ | ⟨-, -, rfl⟩ := exec_csa_cases h
    · exact sameEntries_raise j s _
    · exact sameEntries_raise j s _
    · exact sameEntries_putCs_advance s true hj
  | csd =>
    obtain ⟨-, rfl⟩ | ⟨-, -, rfl⟩ | ⟨-, -, rfl⟩ := exec_csd_cases h
    · exact sameEntries_raise j s _
    · exact sameEntries_raise j s _
    · exact sameEntries_putCs_advance s false hj
  | led =>
    obtain ⟨-, rfl⟩ | ⟨-, -, rfl⟩ | ⟨b, -, -, rfl⟩ := exec_led_cases h
    · exact sameEntries_raise j s _
    · exact sameEntries_raise j s _
    · exact sameEntries_putIndicator_advance s b hj
  | nrm w =>
    obtain ⟨-, rfl⟩ | ⟨-, -, rfl⟩ | ⟨-, -, -, rfl⟩ | ⟨x, v, -, -, -, -, rfl⟩ := exec_nrm_cases h
    · exact sameEntries_raise j s _
    · exact sameEntries_raise j s _
    · exact sameEntries_raise j s _
    · exact sameEntries_putReading_advance s w (normalize x v) x hj
  | xfer c discard w k => exact unwritten (by cases w <;> simp [channelFields, writtenBy])
  | chk w => exact unwritten (by cases w <;> simp [channelFields, writtenBy])
  | _ => exact unwritten (by simp [channelFields, writtenBy])

/-! ### The published array (R114, R218) -/

/-- The one micro-op that writes `PUB_BUF` is PUB, and the one time it does is its publication. -/
theorem exec_pubBuf_eq_or_publish (h : exec i s = .next t) :
    t.pubBuf = s.pubBuf
      ∨ (s.pubReq = false ∧ s.channelArray.any Option.isNone = false ∧ t = s.publish s.channelArray) := by
  by_cases hi : i = .pub
  · subst hi
    obtain ⟨-, -, rfl⟩ | ⟨-, -, rfl⟩ | ⟨-, -, -, rfl⟩ | ⟨-, -, -, rfl⟩ | ⟨-, -, -, rfl⟩ | ⟨hreq, -, hw, rfl⟩ := exec_pub_cases h
    · exact .inl rfl
    · exact .inl rfl
    · exact .inl rfl
    · exact .inl rfl
    · exact .inl rfl
    · exact .inr ⟨hreq, hw, rfl⟩
  · exact .inl (exec_pubBuf_eq h hi)

theorem sequencerStep_pubBuf_eq_or_publish (h : sequencerStep s = .next t) :
    t.pubBuf = s.pubBuf
      ∨ (s.pubReq = false ∧ s.channelArray.any Option.isNone = false ∧ t = s.publish s.channelArray) := by
  obtain ⟨c, -, rfl⟩ | ⟨i, -, he⟩ := sequencerStep_cases h
  · exact .inl rfl
  · exact exec_pubBuf_eq_or_publish he

theorem posAt_ne_none_of_channelArray_written {j : Nat} (h : s.channelArray.any Option.isNone = false) (hj : j < s.cfg.n) :
    s.posAt j ≠ none := by
  intro hn
  have hw := s.channelArray_written_iff.2 ⟨j, hj, hn⟩
  exact Bool.false_ne_true (h.symm.trans hw)

end Sys2Proof.Machine
end

section
/-!
PROOFS. The obligations on the storage of the block (20_memory.md): the frame of every micro-op, the channel arrays away from the
current channel, and the published array.
-/

namespace Sys2Proof.Proofs

open Sys2Proof Sys2Proof.Machine

/-- Settles O30: the frame of every micro-op. -/
theorem eachMicroOpWritesOnlyItsFields : Obligations.EachMicroOpWritesOnlyItsFields :=
  fun _ _ _ h => exec_frame h

/-- Settles O31: four micro-ops write channel arrays, each by a `List.set` at index `CH`. -/
theorem arraysWrittenOnlyAtCurrentChannel : Obligations.ArraysWrittenOnlyAtCurrentChannel :=
  fun _ _ _ h _ hj => exec_keeps_entries_of_other_channels h hj

/-- Settles O49: `PUB_BUF` changes only where PUB copies the channel array, once none of its entries is unwritten. -/
theorem publicationIsAllOrNothing : Obligations.PublicationIsAllOrNothing := by
  intro s t h
  obtain ⟨u, hu, rfl⟩ := step_cases h
  obtain hbuf | ⟨hreq, hw, rfl⟩ := sequencerStep_pubBuf_eq_or_publish hu
  · exact .inl hbuf
  · refine .inr ⟨hreq, rfl, fun j hj => ⟨posAt_ne_none_of_channelArray_written hw hj, ?_⟩⟩
    exact s.getD_channelArray j hj

end Sys2Proof.Proofs
end

section
/-!
SUPPORT. The encoding of 30_encoding.md: a word as its three fields (R301), the selectors and operand bytes, what each decoding
format accepts, and from these the one statement of what the decoder answers.
-/

namespace Sys2Proof

variable {u : Word} {j : Instr}

/-! ### The three fields of a word (R301) -/

@[simp] theorem opField_formatU (o a : BitVec 4) (b : Byte) : opField (formatU o a b) = o := by
  rw [opField, formatU, BitVec.extractLsb'_append_eq_of_le (by decide)]
  exact BitVec.extractLsb'_append_eq_left

@[simp] theorem aField_formatU (o a : BitVec 4) (b : Byte) : aField (formatU o a b) = a := by
  rw [aField, formatU, BitVec.extractLsb'_append_eq_of_le (by decide)]
  exact BitVec.extractLsb'_append_eq_right

@[simp] theorem bField_formatU (o a : BitVec 4) (b : Byte) : bField (formatU o a b) = b :=
  BitVec.extractLsb'_append_eq_right

theorem formatU_fields (u : Word) : formatU (opField u) (aField u) (bField u) = u := by
  rw [formatU, opField, aField, bField,
    BitVec.extractLsb'_append_extractLsb'_eq_extractLsb' (start₁ := 8) (len₁ := 4) rfl]
  exact BitVec.extractLsb'_append_extractLsb' (w := 8) (len := 8)

theorem formatU_eq_iff (o a : BitVec 4) (b : Byte) (u : Word) :
    formatU o a b = u ↔ opField u = o ∧ aField u = a ∧ bField u = b := by
  constructor
  · rintro rfl
    simp
  · rintro ⟨rfl, rfl, rfl⟩
    exact formatU_fields u

theorem formatU_and_formatU (o a o' a' : BitVec 4) (b b' : Byte) :
    formatU o a b &&& formatU o' a' b' = formatU (o &&& o') (a &&& a') (b &&& b') :=
  BitVec.and_append.trans (congrArg (· ++ (b &&& b')) BitVec.and_append)

/-- `u & mask = match` (R307), field by field. -/
theorem and_formatU_eq_iff (u : Word) (mo ma o a : BitVec 4) (mb b : Byte) :
    u &&& formatU mo ma mb = formatU o a b ↔ opField u &&& mo = o ∧ aField u &&& ma = a ∧ bField u &&& mb = b := by
  conv_lhs => rw [← formatU_fields u, formatU_and_formatU]
  rw [formatU_eq_iff]
  simp [eq_comm]

/-- A mask within `B` sees the bits of `B`. -/
theorem and_byteMask_eq_zero_iff (u : Word) (m : Byte) : u &&& formatU 0 0 m = formatU 0 0 0 ↔ bField u &&& m = 0 := by
  simp [and_formatU_eq_iff]

theorem toNat_aField (u : Word) : (aField u).toNat = (u >>> 8 &&& 0xF).toNat := by
  simp [aField, BitVec.extractLsb'_toNat, Nat.and_two_pow_sub_one_eq_mod _ 4]

/-! ### Selectors and operand bytes (R302 to R306) -/

theorem commandOf_eq_some_iff (a : BitVec 4) (c : Command) : commandOf a = some c ↔ a = commandCode c := by
  revert a; cases c <;> decide

theorem delayOf_eq_some_iff (a : BitVec 4) (d : Delay) : delayOf a = some d ↔ a = delayCode d := by
  revert a; cases d <;> decide

/-- `c ≤ 2` (R305). -/
theorem exists_commandCode_iff (a : BitVec 4) : (∃ c, a = commandCode c) ↔ a.toNat ≤ 2 := by
  simp only [← commandOf_eq_some_iff, ← Option.isSome_iff_exists]
  revert a; decide

/-- `d ≤ 5` (R306). -/
theorem exists_delayCode_iff (a : BitVec 4) : (∃ d, a = delayCode d) ↔ a.toNat ≤ 5 := by
  simp only [← delayOf_eq_some_iff, ← Option.isSome_iff_exists]
  revert a; decide

/-- The byte `B` of a micro-op on word `w`: `w` in bit 0, zeros above (R303). -/
def wordByte (w : WordSel) : Byte := (0 : BitVec 7) ++ wordSelCode w

/-- The byte `B` of an XFER: `D`, five zeros, `w`, `k` (R302). -/
def xferByte (discard : Bool) (w : WordSel) (k : ByteSel) : Byte :=
  BitVec.ofBool discard ++ (0 : BitVec 5) ++ wordSelCode w ++ byteSelCode k

theorem encode_chk (w : WordSel) : encode (.chk w) = formatU 0x5 0 (wordByte w) := rfl

theorem encode_nrm (w : WordSel) : encode (.nrm w) = formatU 0x7 0 (wordByte w) := rfl

theorem encode_xfer (c : Command) (discard : Bool) (w : WordSel) (k : ByteSel) :
    encode (.xfer c discard w k) = formatU 0x3 (commandCode c) (xferByte discard w k) := rfl

theorem eq_wordByte_iff (w : WordSel) (b : Byte) :
    b = wordByte w ↔ b.extractLsb' 1 7 = 0 ∧ wordSelOf (b.getLsbD 0) = w := by
  revert b; cases w <;> decide

theorem eq_xferByte_iff (discard : Bool) (w : WordSel) (k : ByteSel) (b : Byte) :
    b = xferByte discard w k ↔ b.extractLsb' 2 5 = 0 ∧ b.getLsbD 7 = discard
      ∧ wordSelOf (b.getLsbD 1) = w ∧ byteSelOf (b.getLsbD 0) = k := by
  revert b; cases discard <;> cases w <;> cases k <;> decide

theorem destination_eq_zero_iff (b : Byte) :
    b.extractLsb' 0 2 = 0 ↔ wordSelOf (b.getLsbD 1) = .position ∧ byteSelOf (b.getLsbD 0) = .lo := by
  revert b; decide

theorem exists_wordByte_iff (b : Byte) : (∃ w, b = wordByte w) ↔ b &&& 0xFE = 0 := by
  simp only [eq_wordByte_iff, exists_and_left, exists_eq', and_true]
  revert b; decide

/-- `D = 1` only with `w = k = 0` (R302). -/
theorem exists_xferByte_iff (c : Command) (b : Byte) :
    (∃ discard w k, b = xferByte discard w k ∧ (Instr.xfer c discard w k).wellFormed = true)
      ↔ b &&& 0x7C = 0 ∧ (b &&& 0x80 ≠ 0 → b &&& 0x03 = 0) := by
  simp only [eq_xferByte_iff, Instr.wellFormed, and_assoc, exists_and_left, exists_eq_left']
  revert b; decide

/-! ### What each format answers -/

theorem decodePlain_eq_ok_iff (i : Instr) : decodePlain u i = .ok j ↔ aField u = 0 ∧ bField u = 0 ∧ i = j := by
  unfold decodePlain
  split_ifs <;> simp_all

theorem decodeByteOperand_eq_ok_iff (i : Byte → Instr) :
    decodeByteOperand u i = .ok j ↔ aField u = 0 ∧ i (bField u) = j := by
  unfold decodeByteOperand
  split_ifs <;> simp_all

theorem decodeWordOperand_eq_ok_iff (i : WordSel → Instr) :
    decodeWordOperand u i = .ok j ↔ aField u = 0 ∧ ∃ w, bField u = wordByte w ∧ i w = j := by
  simp only [eq_wordByte_iff]
  unfold decodeWordOperand
  split_ifs <;> simp_all

theorem decodeWait_eq_ok_iff : decodeWait u = .ok j ↔ ∃ d, aField u = delayCode d ∧ bField u = 0 ∧ .wait d = j := by
  simp only [← delayOf_eq_some_iff]
  unfold decodeWait
  cases delayOf (aField u) with
  | none => simp
  | some d => split_ifs <;> simp_all

theorem decodeXfer_eq_ok_iff :
    decodeXfer u = .ok j ↔ ∃ c discard w k, aField u = commandCode c ∧ bField u = xferByte discard w k
      ∧ (Instr.xfer c discard w k).wellFormed = true ∧ .xfer c discard w k = j := by
  simp only [← commandOf_eq_some_iff, eq_xferByte_iff, Instr.wellFormed]
  unfold decodeXfer
  cases commandOf (aField u) with
  | none => simp
  | some c =>
    have destination := destination_eq_zero_iff (bField u)
    cases hD : (bField u).getLsbD 7 <;> split_ifs <;> simp_all

/-- The opcode picks the row: what the decoder answers, the format of that one row answers. -/
theorem decodeWord_eq_ok_iff_row :
    decodeWord u = .ok j ↔
      (opField u = 0x1 ∧ decodePlain u .csa = .ok j) ∨ (opField u = 0x2 ∧ decodePlain u .csd = .ok j)
        ∨ (opField u = 0x3 ∧ decodeXfer u = .ok j) ∨ (opField u = 0x4 ∧ decodeWait u = .ok j)
        ∨ (opField u = 0x5 ∧ decodeWordOperand u .chk = .ok j) ∨ (opField u = 0x6 ∧ decodePlain u .led = .ok j)
        ∨ (opField u = 0x7 ∧ decodeWordOperand u .nrm = .ok j) ∨ (opField u = 0x8 ∧ decodeByteOperand u .chs = .ok j)
        ∨ (opField u = 0x9 ∧ decodeByteOperand u .nxt = .ok j) ∨ (opField u = 0xA ∧ decodeByteOperand u .jmp = .ok j)
        ∨ (opField u = 0xB ∧ decodePlain u .pub = .ok j) ∨ (opField u = 0xC ∧ decodePlain u .go = .ok j) := by
  unfold decodeWord
  generalize opField u = o
  obtain ⟨n, hn⟩ := o
  interval_cases n <;> simp

/-- R307, R308: the words the decoder reads as `j` are the encoding of `j` alone, and none where `j` is not well-formed. -/
theorem decodeWord_eq_ok_iff : decodeWord u = .ok j ↔ encode j = u ∧ j.wellFormed = true := by
  rw [decodeWord_eq_ok_iff_row]
  simp only [decodePlain_eq_ok_iff, decodeByteOperand_eq_ok_iff, decodeWordOperand_eq_ok_iff, decodeWait_eq_ok_iff,
    decodeXfer_eq_ok_iff]
  cases j with
  | xfer c discard w k => simp [encode_xfer, formatU_eq_iff, and_assoc]
  | chk w => simp [encode_chk, formatU_eq_iff, Instr.wellFormed]
  | nrm w => simp [encode_nrm, formatU_eq_iff, Instr.wellFormed]
  | _ => simp [encode, formatU_eq_iff, Instr.wellFormed]

/-! ### The rows of the opcode map (R307): the words that each row's format accepts, by mask and match -/

theorem plainRow_iff (o : BitVec 4) (i : Instr) :
    (∃ j, opField u = o ∧ decodePlain u i = .ok j) ↔ u = formatU o 0 0 := by
  simp [decodePlain_eq_ok_iff, eq_comm (a := u), formatU_eq_iff]

theorem byteRow_iff (o : BitVec 4) (i : Byte → Instr) :
    (∃ j, opField u = o ∧ decodeByteOperand u i = .ok j)
      ↔ u &&& formatU (BitVec.allOnes 4) (BitVec.allOnes 4) 0 = formatU o 0 0 := by
  rw [and_formatU_eq_iff, BitVec.and_allOnes, BitVec.and_allOnes]
  simp [decodeByteOperand_eq_ok_iff]

theorem wordRow_iff (o : BitVec 4) (i : WordSel → Instr) :
    (∃ j, opField u = o ∧ decodeWordOperand u i = .ok j)
      ↔ u &&& formatU (BitVec.allOnes 4) (BitVec.allOnes 4) 0xFE = formatU o 0 0 := by
  rw [and_formatU_eq_iff, BitVec.and_allOnes, BitVec.and_allOnes, ← exists_wordByte_iff]
  simp [decodeWordOperand_eq_ok_iff]

theorem waitRow_iff :
    (∃ j, opField u = 0x4 ∧ decodeWait u = .ok j)
      ↔ u &&& formatU (BitVec.allOnes 4) 0 (BitVec.allOnes 8) = formatU 0x4 0 0 ∧ (u >>> 8 &&& 0xF).toNat ≤ 5 := by
  rw [and_formatU_eq_iff, BitVec.and_allOnes, BitVec.and_allOnes, ← toNat_aField, ← exists_delayCode_iff]
  simp [decodeWait_eq_ok_iff, and_assoc, and_left_comm, and_comm]

theorem exists_decodeXfer_iff :
    (∃ j, decodeXfer u = .ok j)
      ↔ (aField u).toNat ≤ 2 ∧ bField u &&& 0x7C = 0 ∧ (bField u &&& 0x80 ≠ 0 → bField u &&& 0x03 = 0) := by
  simp only [decodeXfer_eq_ok_iff, ← exists_commandCode_iff]
  constructor
  · rintro ⟨-, c, discard, w, k, ha, hb, hwf, -⟩
    exact ⟨⟨c, ha⟩, (exists_xferByte_iff c _).1 ⟨discard, w, k, hb, hwf⟩⟩
  · rintro ⟨⟨c, ha⟩, operand⟩
    obtain ⟨discard, w, k, hb, hwf⟩ := (exists_xferByte_iff c _).2 operand
    exact ⟨_, c, discard, w, k, ha, hb, hwf, rfl⟩

theorem xferRow_iff :
    (∃ j, opField u = 0x3 ∧ decodeXfer u = .ok j)
      ↔ u &&& formatU (BitVec.allOnes 4) 0 0x7C = formatU 0x3 0 0 ∧ (u >>> 8 &&& 0xF).toNat ≤ 2
        ∧ (u &&& formatU 0 0 0x80 ≠ formatU 0 0 0 → u &&& formatU 0 0 0x03 = formatU 0 0 0) := by
  rw [exists_and_left, exists_decodeXfer_iff, and_formatU_eq_iff, BitVec.and_allOnes, ← toNat_aField]
  simp only [ne_eq, and_byteMask_eq_zero_iff]
  simp [and_assoc, and_left_comm]

end Sys2Proof
end

section
/-!
SUPPORT. What the operands of WAIT and XFER come to (R305, R306): the tick count as R422's ceiling, and the steps of an XFER but its
last, each as the state it answers.
-/

namespace Sys2Proof.Machine

open Sys2Proof

/-! ### The ticks of a delay (R422) -/

theorem natCeil_natCast_div (p q : ℕ) (hq : 0 < q) : ⌈(p / q : ℚ)⌉₊ = p ⌈/⌉ q :=
  eq_of_forall_ge_iff fun n => by
    rw [Nat.ceil_le, div_le_iff₀ (by exact_mod_cast hq), ceilDiv_le_iff_le_mul hq, mul_comm]
    exact_mod_cast Iff.rfl

theorem natCast_toNat_num {q : ℚ} (h : 0 ≤ q) : (q.num.toNat : ℚ) = q.num := by
  exact_mod_cast Int.toNat_of_nonneg (Rat.num_nonneg.2 h)

/-- The count computed on numerators and denominators is the ceiling R422 writes. -/
theorem delayTicks_eq_ceil {f t : ℚ} (hf : 0 ≤ f) (ht : 0 ≤ t) : delayTicks f t = ⌈t * f / 1000000⌉₊ := by
  have hq : 0 < t.den * f.den * 1000000 := Nat.mul_pos (Nat.mul_pos t.den_pos f.den_pos) (by decide)
  have quotient : t * f / 1000000 = ((t.num.toNat * f.num.toNat : ℕ) / (t.den * f.den * 1000000 : ℕ) : ℚ) := by
    push_cast
    rw [natCast_toNat_num ht, natCast_toNat_num hf, ← div_div, mul_div_mul_comm, Rat.num_div_den, Rat.num_div_den]
  rw [quotient, natCeil_natCast_div _ _ hq, Nat.ceilDiv_eq_add_pred_div, Nat.add_sub_assoc hq, delayTicks]

theorem loadTicks_zero (cfg : Config) (d : Delay) : loadTicks cfg d 0 = waitTicks cfg d := by simp [loadTicks]

/-- `n` ticks of `10^6 / f` µs each last at least `t` where `n` reaches R422's bound. -/
theorem le_ticks_mul_of_ceil_le {f t : ℚ} {n : ℕ} (hf : 0 < f) (h : ⌈t * f / 1000000⌉₊ ≤ n) : t ≤ n * (1000000 / f) := by
  rw [Nat.ceil_le, div_le_iff₀ (by norm_num)] at h
  rwa [mul_div_assoc', le_div_iff₀ hf]

/-! ### The steps of an XFER (R451, R461) -/

variable {s : State} {c : Command} {discard : Bool} {w : WordSel} {k : ByteSel}

theorem exec_xfer_of_checks_passed (hidle : s.exchanging = false) (hch : s.channelOk = true)
    (hsel : s.selected s.channel = true) (hmode : discard = true ∨ turnForbidden s.cfg w = false) :
    exec (.xfer c discard w k) s = .next (s.clockRise (commandByte s.cfg c) 0) := by
  have hclock := sclk_eq_false_of_idle_bus hidle
  have mode : (!discard && turnForbidden s.cfg w) = false := by
    obtain h | h := hmode <;> simp [h]
  simp [exec, execXfer, xferStart, hidle, hclock, hch, hsel, mode]

theorem exec_xfer_of_low_half {x : Byte} (hclock : s.sclk = false) (hbegun : 0 < s.bitcnt) (hleft : s.bitcnt < 8)
    (htx : s.tx = some x) : exec (.xfer c discard w k) s = .next (s.clockRise x s.bitcnt) := by
  have hexchange : s.exchanging = true := by simp [State.exchanging, hbegun, hleft]
  simp [exec, execXfer, xferRise, hclock, hexchange, htx]

theorem exec_xfer_of_high_half (hclock : s.sclk = true) (hleft : s.bitcnt < 7) :
    exec (.xfer c discard w k) s = .next s.clockFall := by
  simp [exec, execXfer, hclock, hleft]

/-- The rising edge of a later cell writes `TX` and `BITCNT` as they are. -/
theorem clockRise_frame_of_loaded {x : Byte} (htx : s.tx = some x) :
    OnlyWrites [.mosi, .sclk, .rx] s (s.clockRise x s.bitcnt) := by
  intro f hf
  by_cases rewritten : f = .tx ∨ f = .bitcnt
  · obtain rfl | rfl := rewritten
    · exact htx.symm
    · rfl
  · exact clockRise_frame s x s.bitcnt f (by simp at hf rewritten ⊢; tauto)

end Sys2Proof.Machine
end

section
/-!
PROOFS. The obligations on the encoding and its operands (30_encoding.md): the two round trips, the rows of the opcode map, and what
the selectors of WAIT and XFER name.
-/

namespace Sys2Proof.Proofs

open Sys2Proof Sys2Proof.Machine

/-- Settles O1: the words that the decoder reads as `i` are the encoding of a well-formed `i`. -/
theorem decodeOfEncode : Obligations.DecodeOfEncode :=
  fun _ hi => decodeWord_eq_ok_iff.2 ⟨rfl, hi⟩

/-- Settles O2: the converse reading of the same equivalence. -/
theorem encodeOfDecode : Obligations.EncodeOfDecode :=
  fun _ _ h => (decodeWord_eq_ok_iff.1 h).symm

/-- Settles O3: row by row; each mask and match of R307 is written as its three fields. -/
theorem decoderAcceptsTableRows : Obligations.DecoderAcceptsTableRows := by
  intro u
  simp only [decodeWord_eq_ok_iff_row, exists_or]
  exact or_congr (plainRow_iff 0x1 .csa) <| or_congr (plainRow_iff 0x2 .csd) <| or_congr xferRow_iff <|
    or_congr waitRow_iff <| or_congr (wordRow_iff 0x5 .chk) <| or_congr (plainRow_iff 0x6 .led) <|
    or_congr (wordRow_iff 0x7 .nrm) <| or_congr (byteRow_iff 0x8 .chs) <| or_congr (byteRow_iff 0x9 .nxt) <|
    or_congr (byteRow_iff 0xA .jmp) <| or_congr (plainRow_iff 0xB .pub) (plainRow_iff 0xC .go)

/-- Settles O4: the decoder, run on fourteen closed words. -/
theorem specWordsDecode : Obligations.SpecWordsDecode := by
  unfold Obligations.SpecWordsDecode
  decide

/-- Settles O15: the least count is R422's ceiling, and extra ticks are added as far as `TIMER` holds them. -/
theorem waitTicksCoverTheDelay : Obligations.WaitTicksCoverTheDelay := by
  refine ⟨fun cfg => ⟨rfl, rfl, rfl, rfl, rfl, rfl⟩, fun cfg d extra hf hd => ?_⟩
  have least : waitTicks cfg d = ⌈delayTime cfg d * cfg.fTick / 1000000⌉₊ := delayTicks_eq_ceil hf.le hd
  have covered : ⌈delayTime cfg d * cfg.fTick / 1000000⌉₊ ≤ loadTicks cfg d extra :=
    least ▸ waitTicks_le_loadTicks cfg d extra
  exact ⟨covered, le_ticks_mul_of_ceil_le hf covered, (loadTicks_zero cfg d).trans least, loadTicks_lt cfg d extra⟩

/-- Settles O17: each half of a bit cell but the last is `State.clockRise` or `State.clockFall`. -/
theorem xferClocksBitCells : Obligations.XferClocksBitCells := by
  refine ⟨fun cfg => ⟨rfl, rfl, rfl⟩, fun s c discard w k => ⟨?_, ?_, ?_⟩⟩
  · intro hidle hch hsel hmode
    have mode : discard = true ∨ turnForbidden s.cfg w = false := by rwa [turnForbidden_eq_false_iff]
    refine ⟨_, _, exec_xfer_of_checks_passed hidle (s.channelOk_iff.2 hch) hsel mode, rfl, rfl, rfl, rfl, rfl, ?_, ?_⟩
    · exact (getLsbD_setBit _ 7 7 s.miso (by decide) (by decide)).trans (if_pos rfl)
    · exact OnlyWrites.mono (clockRise_frame s _ _) (by simp)
  · intro x r hclock hbegun hleft htx hrx
    refine ⟨_, _, exec_xfer_of_low_half hclock hbegun hleft htx, rfl, rfl, rfl, fun j hj => ?_, ?_⟩
    · rw [hrx]
      exact getLsbD_setBit r (7 - s.bitcnt) j s.miso (by omega) hj
    · exact OnlyWrites.mono (clockRise_frame_of_loaded htx) (by simp)
  · intro hclock hleft
    exact ⟨_, exec_xfer_of_high_half hclock hleft, rfl, rfl, clockFall_frame s⟩

end Sys2Proof.Proofs
end

section
/-!
SUPPORT. The selector of 40_channel_select.md, micro-op by micro-op: what CSA, CSD and WAIT answer in each case, which
micro-ops can select or deselect a channel, and the countdown of a WAIT.
-/

namespace Sys2Proof.Machine

open Sys2Proof

variable {i : Instr} {s t : State} {d : Delay}

/-! ### CSA and CSD (R401, R411) -/

theorem exec_csa_of_channel_out_of_range (h : s.channelOk = false) : exec .csa s = .next (s.raise .chRange) := by
  simp [exec, execCsa, h]

theorem exec_csa_of_conflict (hch : s.channelOk = true) (hsel : s.anySelected = true) :
    exec .csa s = .next (s.raise .csConflict) := by
  simp [exec, execCsa, hch, hsel]

theorem exec_csa_of_none_selected (hch : s.channelOk = true) (hsel : s.anySelected = false) :
    exec .csa s = .next (s.putCs s.channel true).advance := by
  simp [exec, execCsa, hch, hsel]

theorem exec_csd_of_channel_out_of_range (h : s.channelOk = false) : exec .csd s = .next (s.raise .chRange) := by
  simp [exec, execCsd, h]

theorem exec_csd_of_not_selected (hch : s.channelOk = true) (hsel : s.selected s.channel = false) :
    exec .csd s = .next (s.raise .csNotSelected) := by
  simp [exec, execCsd, hch, hsel]

theorem exec_csd_of_selected (hch : s.channelOk = true) (hsel : s.selected s.channel = true) :
    exec .csd s = .next (s.putCs s.channel false).advance := by
  simp [exec, execCsd, hch, hsel]

theorem putCs_advance_frame (s : State) (n : Nat) (b : Bool) :
    OnlyWrites [.cs, .upc, .upcCarry] s (s.putCs n b).advance := advance_after_frame (putCs_frame s n b)

theorem State.selectLevel_of_selected {n : Nat} (h : s.selected n = true) : s.selectLevel n = s.cfg.csActiveLevel := if_pos h

theorem State.selectLevel_of_not_selected {n : Nat} (h : s.selected n = false) : s.selectLevel n = !s.cfg.csActiveLevel := by
  simp [State.selectLevel, h]

theorem exec_cs_eq (h : exec i s = .next t) (ha : i ≠ .csa) (hd : i ≠ .csd) : t.cs = s.cs :=
  exec_frame h .cs fun hf => by simpa [ha, hd] using owner_of_mem_writtenBy hf

theorem selected_of_selected_putCs_false {n j : Nat} (h : (s.putCs n false).selected j = true) : s.selected j = true := by
  by_cases hj : j = n
  · subst hj
    simp [s.selected_putCs_false j] at h
  · rwa [s.selected_putCs_ne n j false hj] at h

/-- CSA alone selects, and what it selects is the current channel. -/
theorem exec_selects {j : Nat} (h : exec i s = .next t) (hj : t.selected j = true) :
    s.selected j = true
      ∨ (i = .csa ∧ j = s.channel ∧ s.anySelected = false ∧ t = (s.putCs s.channel true).advance) := by
  by_cases ha : i = .csa
  · subst ha
    obtain ⟨-, rfl⟩ | ⟨-, -, rfl⟩ | ⟨-, hnone, rfl⟩ := exec_csa_cases h
    · exact .inl hj
    · exact .inl hj
    · by_cases hjc : j = s.channel
      · exact .inr ⟨rfl, hjc, hnone, rfl⟩
      · exact .inl ((s.selected_putCs_ne _ j true hjc).symm.trans hj)
  · by_cases hd : i = .csd
    · subst hd
      obtain ⟨-, rfl⟩ | ⟨-, -, rfl⟩ | ⟨-, -, rfl⟩ := exec_csd_cases h
      · exact .inl hj
      · exact .inl hj
      · exact .inl (selected_of_selected_putCs_false hj)
    · exact .inl (by rwa [State.selected, exec_cs_eq h ha hd] at hj)

/-- CSD alone deselects. -/
theorem exec_deselects {j : Nat} (h : exec i s = .next t) (hs : s.selected j = true) (ht : t.selected j = false) :
    i = .csd ∧ t = (s.putCs s.channel false).advance := by
  by_cases hd : i = .csd
  · subst hd
    obtain ⟨-, rfl⟩ | ⟨-, -, rfl⟩ | ⟨-, -, rfl⟩ := exec_csd_cases h
    · simp [hs] at ht
    · simp [hs] at ht
    · exact ⟨rfl, rfl⟩
  · have kept : t.selected j = true := by
      by_cases ha : i = .csa
      · subst ha
        obtain ⟨-, rfl⟩ | ⟨-, -, rfl⟩ | ⟨-, -, rfl⟩ := exec_csa_cases h
        · exact hs
        · exact hs
        · by_cases hj : j = s.channel
          · subst hj
            exact s.selected_putCs_self _ true (s.lt_length_of_selected _ hs)
          · exact (s.selected_putCs_ne _ j true hj).trans hs
      · rwa [State.selected, exec_cs_eq h ha hd]
    exact absurd (kept.symm.trans ht) (by simp)

/-- F4's check sees every channel where the array has length N. -/
theorem not_selected_of_anySelected_eq_false (hs : Shaped s) (h : s.anySelected = false) (j : Nat) : s.selected j = false := by
  obtain ⟨length, -⟩ := hs
  by_contra hj
  have hj : s.selected j = true := by simpa using hj
  have conflict := s.anySelected_iff.2 ⟨j, length ▸ s.lt_length_of_selected j hj, hj⟩
  exact Bool.false_ne_true (h.symm.trans conflict)

/-- R403: a channel is newly selected only where none was selected. -/
theorem exec_keeps_singleSelection (h : exec i s = .next t) (hshape : Shaped s) (hs : SingleSelection s) :
    SingleSelection t := by
  intro j k hj hk
  obtain hj | ⟨-, rfl, hnone, -⟩ := exec_selects h hj
  · obtain hk | ⟨-, -, hnone, -⟩ := exec_selects h hk
    · exact hs j k hj hk
    · simp [not_selected_of_anySelected_eq_false hshape hnone j] at hj
  · obtain hk | ⟨-, rfl, -, -⟩ := exec_selects h hk
    · simp [not_selected_of_anySelected_eq_false hshape hnone k] at hk
    · rfl

/-! ### The countdown of a WAIT (R421, R422, log 8) -/

/-- The ticks that WAIT `d` has left after its next step. -/
def State.ticksAfterStep (s : State) (d : Delay) : Nat :=
  if s.timer = 0 then loadTicks s.cfg d s.extraTicks else s.timer - 1

theorem State.ticksAfterStep_of_timer_zero (d : Delay) (h : s.timer = 0) :
    s.ticksAfterStep d = loadTicks s.cfg d s.extraTicks := if_pos h

theorem State.ticksAfterStep_of_timer_ne_zero (d : Delay) (h : s.timer ≠ 0) : s.ticksAfterStep d = s.timer - 1 := if_neg h

theorem exec_wait_of_ticks_left (h : s.ticksAfterStep d ≠ 0) :
    exec (.wait d) s = .next (s.putTimer (s.ticksAfterStep d)) := congrArg Host.Outcome.next (if_neg h)

theorem exec_wait_of_no_ticks_left (h : s.ticksAfterStep d = 0) :
    exec (.wait d) s = .next (s.putTimer 0).advance := congrArg Host.Outcome.next (if_pos h)

/-- A running countdown does not see what the environment drives. -/
theorem ticksAfterStep_counts_down (s : State) (d : Delay) (n : Nat) (inp : Inputs) :
    ((s.putTimer (n + 1)).drive inp).ticksAfterStep d = n := rfl

/-- The fields that the steps of a WAIT but its last, and the environment's moves between them, may write. -/
def waitFields : List Field := [.timer, .miso, .mosi, .pubAck, .extraTicks]

theorem waitStep_frame (s : State) (n : Nat) (inp : Inputs) : OnlyWrites waitFields s ((s.putTimer n).drive inp) :=
  OnlyWrites.trans (putTimer_frame s n) (drive_frame _ inp)

theorem waitEnd_frame (s : State) (inp : Inputs) :
    OnlyWrites (waitFields ++ [.upc, .upcCarry]) s ((s.putTimer 0).advance.drive inp) :=
  OnlyWrites.mono (OnlyWrites.trans (advance_after_frame (putTimer_frame s 0)) (drive_frame _ inp)) (by simp [waitFields])

theorem waitFields_trans {fs : List Field} {u : State} (h : OnlyWrites waitFields s t) (h' : OnlyWrites (waitFields ++ fs) t u) :
    OnlyWrites (waitFields ++ fs) s u :=
  OnlyWrites.mono (OnlyWrites.trans h h') (by simp +contextual)

theorem movesOn_of_waitStep {u : State} (h : OnlyWrites waitFields s t) (hu : MovesOn t u) : MovesOn s u := by
  have upc : t.upc = s.upc := h .upc (by decide)
  simpa only [MovesOn, upc] using hu

/-- While ticks are left, one step and one move of the environment leave the rest of the countdown. -/
theorem execWith_wait_cons {n : Nat} (h : s.ticksAfterStep d = n + 1) (inp : Inputs) (rest : List Inputs) :
    execWith (.wait d) (inp :: rest) s = execWith (.wait d) rest ((s.putTimer (n + 1)).drive inp) := by
  rw [execWith_cons, exec_wait_of_ticks_left (by simp [h]), h, andThen_next]

/-- R731: no environment ends a WAIT before its ticks have passed. -/
theorem execWith_wait_holds (inputs : List Inputs) :
    ∀ s : State, inputs.length ≤ s.ticksAfterStep d → ∃ t, execWith (.wait d) inputs s = .next t ∧ OnlyWrites waitFields s t := by
  induction inputs with
  | nil => exact fun s _ => ⟨s, rfl, OnlyWrites.refl _ s⟩
  | cons inp rest ih =>
    intro s hlen
    obtain ⟨n, hn⟩ : ∃ n, s.ticksAfterStep d = n + 1 := Nat.exists_eq_succ_of_ne_zero (by rw [List.length_cons] at hlen; omega)
    have left : rest.length ≤ ((s.putTimer (n + 1)).drive inp).ticksAfterStep d := by
      rw [ticksAfterStep_counts_down]
      rw [hn] at hlen
      exact Nat.le_of_succ_le_succ hlen
    obtain ⟨t, ht, frame⟩ := ih _ left
    exact ⟨t, (execWith_wait_cons hn inp rest).trans ht, waitFields_trans (fs := []) (waitStep_frame s _ inp) frame⟩

/-- R421: the step after the last tick's completes the WAIT. -/
theorem execWith_wait_completes (inputs : List Inputs) :
    ∀ s : State, inputs.length = s.ticksAfterStep d + 1 →
      ∃ t, execWith (.wait d) inputs s = .next t ∧ t.timer = 0 ∧ MovesOn s t
        ∧ OnlyWrites (waitFields ++ [.upc, .upcCarry]) s t := by
  induction inputs with
  | nil => intro s hlen; simp at hlen
  | cons inp rest ih =>
    intro s hlen
    rw [List.length_cons, Nat.add_right_cancel_iff] at hlen
    cases hn : s.ticksAfterStep d with
    | zero =>
      obtain rfl : rest = [] := List.eq_nil_of_length_eq_zero (hlen.trans hn)
      refine ⟨(s.putTimer 0).advance.drive inp, ?_, rfl, ⟨rfl, rfl⟩, waitEnd_frame s inp⟩
      rw [execWith_cons, exec_wait_of_no_ticks_left hn, andThen_next]
      rfl
    | succ n =>
      obtain ⟨t, ht, timer, moves, frame⟩ := ih ((s.putTimer (n + 1)).drive inp) (hlen.trans hn)
      have first := waitStep_frame s (n + 1) inp
      exact ⟨t, (execWith_wait_cons hn inp rest).trans ht, timer, movesOn_of_waitStep first moves, waitFields_trans first frame⟩

end Sys2Proof.Machine
end

section
/-!
PROOFS. The obligations on the selector's micro-ops (40_channel_select.md): CSA, CSD, WAIT, and that at most one
channel is selected.
-/

namespace Sys2Proof.Proofs

open Sys2Proof Sys2Proof.Machine

/-- Settles O42: CSA is the one micro-op that selects, and it does so only where no channel is selected. -/
theorem stepKeepsSingleSelection : Obligations.StepKeepsSingleSelection := by
  intro s t hshape hs h
  obtain ⟨-, kept⟩ : Shaped t ∧ SingleSelection t :=
    step_invariant (P := fun u => Shaped u ∧ SingleSelection u) (fun _ hs => hs) (fun _ _ hs => hs)
      (fun _ _ _ _ ⟨hshape, hs⟩ h => ⟨exec_keeps_shaped h hshape, exec_keeps_singleSelection h hshape hs⟩) ⟨hshape, hs⟩ h
  exact kept

/-- Settles O14: by induction on the environment's moves, from any point of the countdown. -/
theorem waitHoldsThenCompletes : Obligations.WaitHoldsThenCompletes := by
  intro s d inputs hzero
  rw [← s.ticksAfterStep_of_timer_zero d hzero]
  refine ⟨fun hlen => ?_, execWith_wait_holds inputs s⟩
  obtain ⟨t, ht, timer, moves, frame⟩ := execWith_wait_completes inputs s hlen
  refine ⟨t, ht, timer, moves, fun f hf => ?_⟩
  by_cases hft : f = .timer
  · subst hft
    exact timer.trans hzero.symm
  · exact frame f (by simp [waitFields] at hf ⊢; tauto)

/-- Settles O11: its three cases; an exchange, which alone drives `SCLK`, belongs to an XFER. -/
theorem csaSelectsCurrentChannel : Obligations.CsaSelectsCurrentChannel := by
  refine ⟨rfl, fun s => ⟨?_, ?_, ?_, ?_⟩⟩
  · intro hch
    exact exec_csa_of_channel_out_of_range (s.channelOk_eq_false_iff.2 hch)
  · intro hch hsel
    exact exec_csa_of_conflict (s.channelOk_iff.2 hch) (s.anySelected_iff.2 hsel)
  · rintro ⟨length, -⟩ hch hsel
    have none_selected : s.anySelected = false := by
      rw [← Bool.not_eq_true, s.anySelected_iff]
      rintro ⟨j, hj, hj'⟩
      exact Bool.false_ne_true ((hsel j hj).symm.trans hj')
    have selected := s.selected_putCs_self s.channel true (length ▸ hch)
    exact ⟨_, exec_csa_of_none_selected (s.channelOk_iff.2 hch) none_selected, selected,
      State.selectLevel_of_selected selected, fun j hj => s.selected_putCs_ne _ j true hj, ⟨rfl, rfl⟩, putCs_advance_frame s _ _⟩
  · intro hs hf
    obtain ⟨-, -, hop⟩ := (fetch_run_iff _).1 hf
    exact sclk_eq_false_of_idle_bus (exchanging_eq_false_of_owned hs hop (by simp))

/-- Settles O12: its three cases; an exchange belongs to an XFER. -/
theorem csdDeselectsCurrentChannel : Obligations.CsdDeselectsCurrentChannel := by
  refine ⟨rfl, fun s => ⟨?_, ?_, ?_, ?_⟩⟩
  · intro hch
    exact exec_csd_of_channel_out_of_range (s.channelOk_eq_false_iff.2 hch)
  · intro hch hsel
    exact exec_csd_of_not_selected (s.channelOk_iff.2 hch) hsel
  · intro hch hsel
    have deselected := s.selected_putCs_false s.channel
    exact ⟨_, exec_csd_of_selected (s.channelOk_iff.2 hch) hsel, deselected, State.selectLevel_of_not_selected deselected,
      fun j hj => s.selected_putCs_ne _ j false hj, ⟨rfl, rfl⟩, putCs_advance_frame s _ _⟩
  · intro hs hf
    obtain ⟨-, -, hop⟩ := (fetch_run_iff _).1 hf
    exact exchanging_eq_false_of_owned hs hop (by simp)

/-- Settles O13: the ticks left after the step are none in the third case alone. -/
theorem waitCountsTicks : Obligations.WaitCountsTicks := by
  intro s d
  refine ⟨fun hrun => ?_, fun hzero hload => ?_, fun hlast => ?_⟩
  · have left := s.ticksAfterStep_of_timer_ne_zero d (by omega)
    exact ⟨_, exec_wait_of_ticks_left (by omega), left, putTimer_frame s _⟩
  · have left := s.ticksAfterStep_of_timer_zero d hzero
    exact ⟨_, exec_wait_of_ticks_left (by omega), left, putTimer_frame s _⟩
  · have none_left : s.ticksAfterStep d = 0 := by
      obtain hone | ⟨hzero, hload⟩ := hlast
      · rw [s.ticksAfterStep_of_timer_ne_zero d (by omega), hone]
      · rw [s.ticksAfterStep_of_timer_zero d hzero, hload]
    exact ⟨_, exec_wait_of_no_ticks_left none_left, rfl, ⟨rfl, rfl⟩, advance_after_frame (putTimer_frame s 0)⟩

end Sys2Proof.Proofs
end

section
/-!
SUPPORT. The built ROM as the machine runs it (R690): the micro-op at `upc` is the one of `romOps` there, and which micro-op comes
after which, along a run of the ROM and across its two jumps.
-/

namespace Sys2Proof.Machine

open Sys2Proof

variable {cfg : Config} {i j : Instr} {s t : State} {a : Addr}

/-! ### The words of the ROM -/

theorem wellFormed_of_mem_romOps (h : i ∈ romOps cfg) : i.wellFormed = true := by
  obtain ⟨c, -, hz⟩ | hb : (∃ c ∈ cfg.zeroSetChannels, i ∈ zeroSetOps c) ∨ i ∈ bodyHead ++ bodyTail cfg.mode (romBase cfg) := by
    simpa [romOps, preambleOps] using h
  · simp only [zeroSetOps, List.mem_cons, List.not_mem_nil, or_false] at hz
    obtain rfl | rfl | rfl | rfl | rfl | rfl | rfl | rfl | rfl | rfl := hz <;> rfl
  · have words : ∀ k ∈ bodyHead ++ bodyTail cfg.mode (romBase cfg), k.wellFormed = true := by
      cases cfg.mode <;> simp [bodyHead, bodyTail, Instr.wellFormed]
    exact words i hb

theorem decodeWord_getElem?_buildRom (cfg : Config) (p : Nat) :
    (buildRom cfg)[p]?.map decodeWord = (romOps cfg)[p]?.map Decoded.ok := by
  rw [buildRom, List.getElem?_map, Option.map_map]
  cases h : (romOps cfg)[p]? with
  | none => rfl
  | some i => exact congrArg some (decodeWord_eq_ok_iff.2 ⟨rfl, wellFormed_of_mem_romOps (List.mem_of_getElem? h)⟩)

theorem currentOp_of_buildRom (hrom : s.rom = buildRom cfg) :
    currentOp s = if s.upcCarry then none else (romOps cfg)[s.upc.toNat]? := by
  have decoded := decodeWord_getElem?_buildRom cfg s.upc.toNat
  unfold currentOp
  rw [hrom]
  cases s.upcCarry with
  | true => rfl
  | false =>
    cases hw : (buildRom cfg)[s.upc.toNat]? <;> cases hi : (romOps cfg)[s.upc.toNat]? <;> simp_all

theorem length_romOps_le (h : configOk cfg = true) : (romOps cfg).length ≤ 256 := by
  obtain ⟨-, -, -, -, -, -, length, -⟩ := (configOk_iff cfg).1 h
  simpa [buildRom] using length

/-! ### What follows what -/

/-- What R691 to R693 keep of any two micro-ops in a row: CSA is followed by WAIT SETTLE (R402) and CSD by WAIT CS_IDLE (R413),
and CSD follows WAIT HOLD (R412). -/
def TimedPair (i j : Instr) : Prop :=
  (i = .csa → j = .wait .settle) ∧ (i = .csd → j = .wait .csIdle) ∧ (j = .csd → i = .wait .hold)

theorem isChain_body (mode : Mode) (base : Nat) : (bodyHead ++ bodyTail mode base).IsChain TimedPair := by
  cases mode <;> simp [bodyHead, bodyTail, TimedPair]

theorem isChain_preambleOps_append {ops : List Instr} (hhead : ops.head? ≠ some .csd) (hops : ops.IsChain TimedPair) :
    ∀ channels, (preambleOps channels ++ ops).IsChain TimedPair
      ∧ (preambleOps channels ++ ops).head? ≠ some .csd
  | [] => ⟨hops, hhead⟩
  | c :: channels => by
    obtain ⟨chain, head⟩ := isChain_preambleOps_append hhead hops channels
    have boundary : ∀ j ∈ (preambleOps channels ++ ops).head?, TimedPair (.wait .zero) j := by
      intro j hj
      refine ⟨by simp, by simp, ?_⟩
      rintro rfl
      exact absurd hj head
    have step : preambleOps (c :: channels) ++ ops = zeroSetOps c ++ (preambleOps channels ++ ops) := by
      simp [preambleOps]
    rw [step]
    refine ⟨List.isChain_append.2 ⟨by simp [zeroSetOps, TimedPair], chain, ?_⟩, by simp [zeroSetOps]⟩
    simpa [zeroSetOps] using boundary

theorem isChain_romOps (cfg : Config) : (romOps cfg).IsChain TimedPair := by
  obtain ⟨chain, -⟩ := isChain_preambleOps_append (by simp [bodyHead]) (isChain_body cfg.mode (romBase cfg)) cfg.zeroSetChannels
  exact chain

theorem getLast?_romOps (cfg : Config) : (romOps cfg).getLast? = some (.jmp (BitVec.ofNat 8 (romBase cfg + 1))) := by
  unfold romOps
  cases cfg.mode <;> simp [bodyTail]

theorem timedPair_of_getElem? {p : Nat} (hi : (romOps cfg)[p]? = some i) (hj : (romOps cfg)[p + 1]? = some j) :
    TimedPair i j := by
  obtain ⟨hp, rfl⟩ := List.getElem?_eq_some_iff.1 hj
  obtain ⟨hp', rfl⟩ := List.getElem?_eq_some_iff.1 hi
  exact List.isChain_iff_getElem.1 (isChain_romOps cfg) p hp

/-- The ROM ends in its JMP: after every other micro-op there is one more. -/
theorem exists_next_in_romOps {p : Nat} (hi : (romOps cfg)[p]? = some i) (hne : ∀ b, i ≠ .jmp b) :
    ∃ j, (romOps cfg)[p + 1]? = some j := by
  obtain ⟨hp, -⟩ := List.getElem?_eq_some_iff.1 hi
  cases hnext : (romOps cfg)[p + 1]? with
  | some j => exact ⟨j, rfl⟩
  | none =>
    have last := getLast?_romOps cfg
    rw [List.getElem?_eq_none_iff] at hnext
    rw [List.getLast?_eq_getElem?, show (romOps cfg).length - 1 = p by omega, hi] at last
    exact absurd (Option.some.inj last) (hne _)

theorem getElem?_romOps_body (cfg : Config) (k : Nat) :
    (romOps cfg)[romBase cfg + k]? = (bodyHead ++ bodyTail cfg.mode (romBase cfg))[k]? := by
  rw [romOps, List.getElem?_append_right (by simp [romBase])]
  simp [romBase]

theorem nxt_mem_romOps (h : .nxt a ∈ romOps cfg) : a = BitVec.ofNat 8 (romBase cfg + 2) := by
  unfold romOps at h
  cases hm : cfg.mode <;> simpa [hm, preambleOps, zeroSetOps, bodyHead, bodyTail] using h

theorem jmp_mem_romOps (h : .jmp a ∈ romOps cfg) : a = BitVec.ofNat 8 (romBase cfg + 1) := by
  unfold romOps at h
  cases hm : cfg.mode <;> simpa [hm, preambleOps, zeroSetOps, bodyHead, bodyTail] using h

/-- Addresses in the body's opening fit `upc`. -/
theorem toNat_bodyAddress {k : Nat} (hcfg : configOk cfg = true) (hk : k < 6) :
    (BitVec.ofNat 8 (romBase cfg + k)).toNat = romBase cfg + k := by
  obtain ⟨-, -, -, -, -, -, length, -⟩ := (configOk_iff cfg).1 hcfg
  rw [length_buildRom_le_iff] at length
  rw [BitVec.toNat_ofNat, Nat.mod_eq_of_lt]
  unfold romBase
  omega

/-- R691, R692: NXT goes back to the body's CSA, and JMP to its CHS 0. -/
theorem jumpTarget_romOps (hcfg : configOk cfg = true) (h : .nxt a ∈ romOps cfg ∨ .jmp a ∈ romOps cfg) :
    (romOps cfg)[a.toNat]? = some .csa ∨ (romOps cfg)[a.toNat]? = some (.chs 0) := by
  obtain h | h := h
  · rw [nxt_mem_romOps h, toNat_bodyAddress hcfg (by decide), getElem?_romOps_body]
    exact .inl rfl
  · rw [jmp_mem_romOps h, toNat_bodyAddress hcfg (by decide), getElem?_romOps_body]
    exact .inr rfl

/-! ### Where a micro-op leads -/

/-- A micro-op stays at `upc` (a hold, or a fault), moves on, or is NXT or JMP and goes to its operand. -/
theorem exec_upc_cases (h : exec i s = .next t) :
    (t.upc = s.upc ∧ t.upcCarry = s.upcCarry) ∨ MovesOn s t
      ∨ ∃ a, (i = .nxt a ∨ i = .jmp a) ∧ t.upc = a ∧ t.upcCarry = false := by
  cases i with
  | csa => obtain ⟨-, rfl⟩ | ⟨-, -, rfl⟩ | ⟨-, -, rfl⟩ := exec_csa_cases h <;> simp [MovesOn]
  | csd => obtain ⟨-, rfl⟩ | ⟨-, -, rfl⟩ | ⟨-, -, rfl⟩ := exec_csd_cases h <;> simp [MovesOn]
  | xfer c discard w k =>
    obtain ⟨-, -, rfl⟩ | ⟨-, -, -, rfl⟩ | ⟨-, -, -, -, -, rfl⟩ | ⟨-, -, -, -, rfl⟩ | ⟨-, -, -, rfl⟩ | ⟨x, -, -, -, rfl⟩
      | ⟨-, -, rfl⟩ | ⟨-, -, -, rfl⟩ | ⟨-, -, -, -, rfl⟩ | ⟨b, -, -, -, -, rfl⟩ := exec_xfer_cases h <;> simp [MovesOn]
  | wait d => obtain ⟨-, rfl⟩ | ⟨-, rfl⟩ := exec_wait_cases h <;> simp [MovesOn]
  | chk w => obtain ⟨-, rfl⟩ | ⟨-, -, rfl⟩ | ⟨x, -, -, rfl⟩ := exec_chk_cases h <;> simp [MovesOn]
  | led => obtain ⟨-, rfl⟩ | ⟨-, -, rfl⟩ | ⟨b, -, -, rfl⟩ := exec_led_cases h <;> simp [MovesOn]
  | nrm w =>
    obtain ⟨-, rfl⟩ | ⟨-, -, rfl⟩ | ⟨-, -, -, rfl⟩ | ⟨x, v, -, -, -, -, rfl⟩ := exec_nrm_cases h <;> simp [MovesOn]
  | chs n => obtain ⟨-, rfl⟩ | ⟨-, rfl⟩ := exec_chs_cases h <;> simp [MovesOn]
  | nxt a => obtain ⟨-, rfl⟩ | ⟨-, rfl⟩ := exec_nxt_cases h <;> simp [MovesOn]
  | jmp a => obtain rfl := exec_jmp_cases h; simp
  | pub =>
    obtain ⟨-, -, rfl⟩ | ⟨-, -, rfl⟩ | ⟨-, -, -, rfl⟩ | ⟨-, -, -, rfl⟩ | ⟨-, -, -, rfl⟩ | ⟨-, -, -, rfl⟩ :=
      exec_pub_cases h <;> simp [MovesOn]
  | go => obtain ⟨-, rfl⟩ | ⟨-, rfl⟩ := exec_go_cases h <;> simp [MovesOn]

/-- What a run of the built ROM keeps: its configuration and ROM, and that a hold belongs to the micro-op at `upc`. -/
structure OnRom (cfg : Config) (s : State) : Prop where
  cfg_eq : s.cfg = cfg
  rom_eq : s.rom = buildRom cfg
  holds : HoldsOwned s

theorem onRom_poweredUp (cfg : Config) (inp : Inputs) : OnRom cfg (poweredUp cfg inp) :=
  ⟨rfl, rfl, holdsOwned_of_idle_bus rfl (Nat.zero_le 8) (absurd rfl) (by simp [poweredUp, State.powerUp])
    (by simp [poweredUp, State.powerUp])⟩

theorem sequencerStep_keeps_onRom (hs : OnRom cfg s) (h : sequencerStep s = .next t) (inp : Inputs) :
    OnRom cfg (t.drive inp) := by
  have kept : OnRom cfg t := by
    refine sequencerStep_invariant (P := OnRom cfg) (fun _ _ ⟨hc, hr, ho⟩ => ⟨hc, hr, ho⟩) ?_ hs h
    rintro i s t hop ⟨hc, hr, ho⟩ he
    obtain ⟨hcfg, hrom⟩ := exec_parameters_eq he
    exact ⟨hcfg.trans hc, hrom.trans hr, exec_keeps_holdsOwned hop ho he⟩
  obtain ⟨hc, hr, ho⟩ := kept
  exact ⟨hc, hr, ho⟩

theorem OnRom.getElem?_of_currentOp (hs : OnRom cfg s) (hop : currentOp s = some i) :
    s.upcCarry = false ∧ (romOps cfg)[s.upc.toNat]? = some i := by
  rw [currentOp_of_buildRom hs.rom_eq] at hop
  cases hc : s.upcCarry <;> simp_all

/-- Moving on leads to the next micro-op of the ROM, which never reaches address 256. -/
theorem OnRom.currentOp_of_movesOn (hcfg : configOk cfg = true) (hs : OnRom cfg s) (ht : t.rom = s.rom) (h : MovesOn s t) :
    currentOp t = (romOps cfg)[s.upc.toNat + 1]? := by
  obtain ⟨hupc, hcarry⟩ := h
  rw [currentOp_of_buildRom (ht.trans hs.rom_eq), hupc, hcarry]
  by_cases hlast : s.upc = 0xFF
  · have past := length_romOps_le hcfg
    simp [hlast, past]
  · have next : (s.upc + 1).toNat = s.upc.toNat + 1 := by
      have : s.upc.toNat ≠ 0xFF := fun h => hlast (BitVec.eq_of_toNat_eq h)
      rw [BitVec.toNat_add]
      simp
      omega
    rw [if_neg (by simpa using hlast), next]

/-- A micro-op that moves on, and is no JMP, leads to one that may follow it. -/
theorem OnRom.timedPair_of_movesOn (hcfg : configOk cfg = true) (hs : OnRom cfg s) (hop : currentOp s = some i)
    (hne : ∀ b, i ≠ .jmp b) (ht : t.rom = s.rom) (h : MovesOn s t) : ∃ j, currentOp t = some j ∧ TimedPair i j := by
  obtain ⟨-, hi⟩ := hs.getElem?_of_currentOp hop
  obtain ⟨j, hj⟩ := exists_next_in_romOps hi hne
  exact ⟨j, (hs.currentOp_of_movesOn hcfg ht h).trans hj, timedPair_of_getElem? hi hj⟩

/-- A run comes to a CSD from WAIT HOLD alone, and no jump leads to one. -/
theorem OnRom.csd_entered_from_hold (hcfg : configOk cfg = true) (hs : OnRom cfg s) (hop : currentOp s = some i)
    (h : exec i s = .next t) (ht : currentOp t = some .csd) : i = .csd ∨ i = .wait .hold := by
  obtain ⟨-, hi⟩ := hs.getElem?_of_currentOp hop
  obtain ⟨-, hrom⟩ := exec_parameters_eq h
  obtain ⟨hupc, hcarry⟩ | hmoves | ⟨a, hjump, hupc, hcarry⟩ := exec_upc_cases h
  · have stays : currentOp t = currentOp s := by unfold currentOp; rw [hupc, hcarry, hrom]
    exact .inl (Option.some.inj (hop.symm.trans (stays.symm.trans ht)))
  · rw [hs.currentOp_of_movesOn hcfg hrom hmoves] at ht
    obtain ⟨-, -, csd⟩ := timedPair_of_getElem? hi ht
    exact .inr (csd rfl)
  · have mem := List.mem_of_getElem? hi
    rw [currentOp_of_buildRom (hrom.trans hs.rom_eq), hupc, hcarry] at ht
    have target := jumpTarget_romOps hcfg (hjump.imp (fun h => h ▸ mem) fun h => h ▸ mem)
    simp [show (romOps cfg)[a.toNat]? = some .csd from ht] at target

end Sys2Proof.Machine
end

section
/-!
SUPPORT. From the stamped trace to the micro-ops: what change of the state an event reports and which micro-op makes it, and how a
lower bound on the time between two kinds of events follows from a countdown, a function of the state that no step lets fall by
more than the time the step lasts.
-/

namespace Sys2Proof.Machine

open Sys2Proof

variable {i : Instr} {s t : State} {x : ℚ × PinEvent} {n : Nat}

/-! ### The events of a step (R400) -/

/-- The change from `s` to `t` that an event on the select lines or the clock reports; nothing is said of the others. -/
def ReportsChange (s t : State) : PinEvent → Prop
  | .csOn n => s.selected n = false ∧ t.selected n = true
  | .csOff n => s.selected n = true ∧ t.selected n = false
  | .sclkRise => s.sclk = false ∧ t.sclk = true
  | .sclkFall => s.sclk = true ∧ t.sclk = false
  | _ => True

theorem reportsChange_of_mem_selectEvents {e : PinEvent} (h : e ∈ selectEvents s t) : ReportsChange s t e := by
  obtain ⟨n, -, hn⟩ := List.mem_filterMap.1 h
  split at hn
  · rename_i hon
    cases hn
    simpa [ReportsChange] using hon
  · split at hn
    · rename_i hoff
      cases hn
      simpa [ReportsChange] using hoff
    · cases hn

theorem reportsChange_of_mem_endEvents {e : PinEvent} (h : e ∈ endEvents s t) : ReportsChange s t e := by
  simp only [endEvents, List.mem_append, or_assoc] at h
  obtain hrise | hfall | hselect | hled | hreq := h
  · split at hrise
    · rename_i hedge
      obtain rfl | rfl : e = .sclkRise ∨ e = .sample s.miso := by simpa using hrise
      · simpa [ReportsChange] using hedge
      · trivial
    · cases hrise
  · split at hfall
    · rename_i hedge
      obtain rfl : e = .sclkFall := by simpa using hfall
      simpa [ReportsChange] using hedge
    · cases hfall
  · exact reportsChange_of_mem_selectEvents hselect
  · obtain ⟨-, rfl⟩ := List.mem_ite_nil_right.1 hled |>.imp_right List.mem_singleton.1
    trivial
  · obtain ⟨-, rfl⟩ := List.mem_ite_nil_right.1 hreq |>.imp_right List.mem_singleton.1
    trivial

/-- An event stands at the end of its step, but for `MOSI`, which is driven at the beginning. -/
theorem mem_stepEvents_cases (h : x ∈ stepEvents s t) :
    (x.1 = 0 ∧ ∃ b, x.2 = .mosi b) ∨ (x.1 = stepFloor s t ∧ x.2 ∈ endEvents s t) := by
  obtain h | h := List.mem_append.1 h
  · split at h <;> simp at h
    subst h
    exact .inl ⟨rfl, _, rfl⟩
  · obtain ⟨e, he, rfl⟩ := List.mem_map.1 h
    exact .inr ⟨rfl, he⟩

theorem reportsChange_of_mem_stepEvents (h : x ∈ stepEvents s t) : ReportsChange s t x.2 := by
  obtain ⟨-, b, hb⟩ | ⟨-, he⟩ := mem_stepEvents_cases h
  · rw [hb]
    trivial
  · exact reportsChange_of_mem_endEvents he

theorem stamp_nonneg_of_mem_stepEvents (h : x ∈ stepEvents s t) (hf : 0 ≤ stepFloor s t) : 0 ≤ x.1 := by
  obtain ⟨h0, -⟩ | ⟨h1, -⟩ := mem_stepEvents_cases h
  · exact h0.ge
  · exact hf.trans h1.ge

theorem stamp_le_of_mem_stepEvents (h : x ∈ stepEvents s t) (hf : 0 ≤ stepFloor s t) : x.1 ≤ stepFloor s t := by
  obtain ⟨h0, -⟩ | ⟨h1, -⟩ := mem_stepEvents_cases h
  · exact h0.trans_le hf
  · exact h1.le

/-! ### The micro-op behind an event -/

/-- `SCLK` moves in an XFER only (R451). -/
theorem sequencerStep_moves_clock (h : sequencerStep s = .next t) (hne : t.sclk ≠ s.sclk) :
    ∃ c discard w k, currentOp s = some (.xfer c discard w k) ∧ exec (.xfer c discard w k) s = .next t := by
  obtain ⟨c, -, rfl⟩ | ⟨i, hi, he⟩ := sequencerStep_cases h
  · exact absurd rfl hne
  · obtain ⟨-, -, hop⟩ := (fetch_run_iff i).1 hi
    by_contra hx
    have other : ∀ c discard w k, i ≠ .xfer c discard w k := by
      rintro c discard w k rfl
      exact hx ⟨c, discard, w, k, hop, he⟩
    obtain ⟨hsclk, -⟩ := exec_clock_eq he other
    exact hne hsclk

theorem sequencerStep_selects (h : sequencerStep s = .next t) (hs : s.selected n = false) (ht : t.selected n = true) :
    currentOp s = some .csa ∧ t = (s.putCs s.channel true).advance := by
  obtain ⟨c, -, rfl⟩ | ⟨i, hi, he⟩ := sequencerStep_cases h
  · simp [hs] at ht
  · obtain ⟨-, -, hop⟩ := (fetch_run_iff i).1 hi
    obtain hs' | ⟨rfl, -, -, heq⟩ := exec_selects he ht
    · simp [hs] at hs'
    · exact ⟨hop, heq⟩

theorem sequencerStep_deselects (h : sequencerStep s = .next t) (hs : s.selected n = true) (ht : t.selected n = false) :
    currentOp s = some .csd ∧ t = (s.putCs s.channel false).advance := by
  obtain ⟨c, -, rfl⟩ | ⟨i, hi, he⟩ := sequencerStep_cases h
  · simp [hs] at ht
  · obtain ⟨-, -, hop⟩ := (fetch_run_iff i).1 hi
    obtain ⟨rfl, heq⟩ := exec_deselects he hs ht
    exact ⟨hop, heq⟩

theorem currentOp_of_csOn (h : sequencerStep s = .next t) (hx : x ∈ stepEvents s t) (he : x.2 = .csOn n) :
    currentOp s = some .csa ∧ t = (s.putCs s.channel true).advance := by
  have change := reportsChange_of_mem_stepEvents hx
  rw [he] at change
  obtain ⟨hs, ht⟩ := change
  exact sequencerStep_selects h hs ht

theorem currentOp_of_csOff (h : sequencerStep s = .next t) (hx : x ∈ stepEvents s t) (he : x.2 = .csOff n) :
    currentOp s = some .csd ∧ t = (s.putCs s.channel false).advance := by
  have change := reportsChange_of_mem_stepEvents hx
  rw [he] at change
  obtain ⟨hs, ht⟩ := change
  exact sequencerStep_deselects h hs ht

theorem currentOp_of_edge (h : sequencerStep s = .next t) (hx : x ∈ stepEvents s t) (he : x.2 = .sclkRise ∨ x.2 = .sclkFall) :
    ∃ c discard w k, currentOp s = some (.xfer c discard w k) ∧ exec (.xfer c discard w k) s = .next t := by
  have change := reportsChange_of_mem_stepEvents hx
  refine sequencerStep_moves_clock h ?_
  obtain he | he := he <;> rw [he] at change <;> obtain ⟨hs, ht⟩ := change <;> simp [hs, ht]

/-! ### Countdowns -/

/-- The events `CS_ON(n)`. -/
def IsSelect (e : PinEvent) : Prop := ∃ n, e = .csOn n

/-- The events `CS_OFF(n)`. -/
def IsDeselect (e : PinEvent) : Prop := ∃ n, e = .csOff n

/-- Along the steps of a run that keeps `P`, `R` is a lower bound on the time to the next event of the kind `second`. -/
structure Countdown (P : State → Prop) (R : State → ℚ) (second : PinEvent → Prop) : Prop where
  keeps : ∀ s t inp, P s → sequencerStep s = .next t → P (t.drive inp)
  lasts : ∀ s t, P s → 0 ≤ stepFloor s t
  step : ∀ s t inp, P s → sequencerStep s = .next t → R s ≤ stepFloor s t + R (t.drive inp)
  emits : ∀ s t, P s → sequencerStep s = .next t → ∀ x ∈ stepEvents s t, second x.2 → R s ≤ x.1

/-- Two events of a trace, of the kinds `first` and `second`, are `T` apart at least. -/
def Apart (T : ℚ) (first second : PinEvent → Prop) (x y : ℚ × PinEvent) : Prop := first x.2 → second y.2 → T ≤ y.1 - x.1

/-- A run that answers a step goes on from there; one that stops has no events. -/
theorem timedTrace_cons_cases (now : ℚ) (inp : Inputs) (rest : List Inputs) (s : State) :
    timedTrace now (inp :: rest) s = [] ∨ ∃ t, sequencerStep s = .next t ∧
      timedTrace now (inp :: rest) s
        = (stepEvents s t).map (fun e => (now + e.1, e.2)) ++ timedTrace (now + stepFloor s t) rest (t.drive inp) := by
  cases h : sequencerStep s with
  | next t => exact .inr ⟨t, rfl, timedTrace_cons now inp rest h⟩
  | fault f => exact .inl (by rw [timedTrace, h]; rfl)
  | refused r => exact .inl (by rw [timedTrace, h]; rfl)

section

variable {P : State → Prop} {R : State → ℚ} {T : ℚ} {first second : PinEvent → Prop}

theorem Countdown.le_stamp (hc : Countdown P R second) (inputs : List Inputs) :
    ∀ (s : State) (now : ℚ), P s → ∀ y ∈ timedTrace now inputs s, second y.2 → now + R s ≤ y.1 := by
  induction inputs with
  | nil => intro s now _ y hy; cases hy
  | cons inp rest ih =>
    intro s now hs y hy hsecond
    obtain hnil | ⟨t, ht, htrace⟩ := timedTrace_cons_cases now inp rest s
    · rw [hnil] at hy
      cases hy
    · rw [htrace] at hy
      obtain hy | hy := List.mem_append.1 hy
      · obtain ⟨x, hx, rfl⟩ := List.mem_map.1 hy
        have := hc.emits s t hs ht x hx hsecond
        linarith
      · have later := ih (t.drive inp) _ (hc.keeps s t inp hs ht) y hy hsecond
        have := hc.step s t inp hs ht
        linarith

/-- Where no step has an event of each kind, and the countdown stands at `T` after an event of the first kind, the two kinds are
`T` apart in every trace. -/
theorem Countdown.apart (hc : Countdown P R second)
    (start : ∀ s t inp, P s → sequencerStep s = .next t → ∀ x ∈ stepEvents s t, first x.2 →
      (∀ y ∈ stepEvents s t, ¬ second y.2) ∧ T ≤ R (t.drive inp)) (inputs : List Inputs) :
    ∀ (s : State) (now : ℚ), P s → (timedTrace now inputs s).Pairwise (Apart T first second) := by
  induction inputs with
  | nil => exact fun s now _ => List.Pairwise.nil
  | cons inp rest ih =>
    intro s now hs
    obtain hnil | ⟨t, ht, htrace⟩ := timedTrace_cons_cases now inp rest s
    · rw [hnil]
      exact List.Pairwise.nil
    · have hs' := hc.keeps s t inp hs ht
      rw [htrace, List.pairwise_append]
      refine ⟨?_, ih (t.drive inp) _ hs', ?_⟩
      · refine List.pairwise_map.2 (List.pairwise_of_forall_mem_list fun x hx y hy hfirst hsecond => ?_)
        obtain ⟨other, -⟩ := start s t inp hs ht x hx hfirst
        exact absurd hsecond (other y hy)
      · intro x' hx' y hy hfirst hsecond
        obtain ⟨x, hx, rfl⟩ := List.mem_map.1 hx'
        obtain ⟨-, bound⟩ := start s t inp hs ht x hx hfirst
        have stamp := stamp_le_of_mem_stepEvents hx (hc.lasts s t hs)
        have := hc.le_stamp rest (t.drive inp) _ hs' y hy hsecond
        simp only
        linarith

end

theorem apart_of_pairwise {T : ℚ} {first second : PinEvent → Prop} {tr before mid after : List (ℚ × PinEvent)} {t1 t2 : ℚ}
    {e1 e2 : PinEvent} (h : tr.Pairwise (Apart T first second)) (htr : tr = before ++ (t1, e1) :: (mid ++ (t2, e2) :: after))
    (h1 : first e1) (h2 : second e2) : T ≤ t2 - t1 := by
  subst htr
  obtain ⟨-, later, -⟩ := List.pairwise_append.1 h
  obtain ⟨later, -⟩ := List.pairwise_cons.1 later
  exact later (t2, e2) (by simp) h1 h2

end Sys2Proof.Machine
end

section
/-!
SUPPORT. The countdowns of 40_channel_select.md sections 1 and 2: the time left to the WAIT at `upc` (R402, R413), and the time
left before the next CSD (R412).
-/

namespace Sys2Proof.Machine

open Sys2Proof

variable {cfg : Config} {i : Instr} {s t : State} {d : Delay}

/-! ### The time left to a WAIT (R422) -/

/-- The least time until WAIT `d` at `upc` completes: its whole delay before it begins, then a tick for each one left. -/
def State.waitLeft (s : State) (d : Delay) : ℚ :=
  if s.timer = 0 then delayTime s.cfg d else s.timer * tickTime s.cfg

/-- The least time until a micro-op other than WAIT is performed. -/
def State.heldFor (s : State) : ℚ :=
  match currentOp s with
  | some (.wait d) => s.waitLeft d
  | _ => 0

/-- The least time until the CSD that ends a selection, when only WAIT HOLD leads to it. -/
def State.beforeCsd (s : State) : ℚ :=
  if currentOp s = some .csd then 0
  else if currentOp s = some (.wait .hold) then s.waitLeft .hold
  else s.cfg.tHold

theorem waitLeft_of_timer_zero (d : Delay) (h : s.timer = 0) : s.waitLeft d = delayTime s.cfg d := if_pos h

theorem waitLeft_of_timer_ne_zero (d : Delay) (h : s.timer ≠ 0) : s.waitLeft d = s.timer * tickTime s.cfg := if_neg h

theorem heldFor_of_wait (h : currentOp s = some (.wait d)) : s.heldFor = s.waitLeft d := by
  simp [State.heldFor, h]

theorem heldFor_of_not_wait (h : currentOp s = some i) (hi : ∀ d, i ≠ .wait d) : s.heldFor = 0 := by
  unfold State.heldFor
  rw [h]
  split
  · rename_i d hd
    exact absurd (Option.some.inj hd) (hi d)
  · rfl

theorem beforeCsd_of_csd (h : currentOp s = some .csd) : s.beforeCsd = 0 := if_pos h

theorem beforeCsd_of_hold (h : currentOp s = some (.wait .hold)) : s.beforeCsd = s.waitLeft .hold := by
  simp [State.beforeCsd, h]

theorem beforeCsd_of_other (h1 : currentOp s ≠ some .csd) (h2 : currentOp s ≠ some (.wait .hold)) :
    s.beforeCsd = s.cfg.tHold := by
  simp [State.beforeCsd, h1, h2]

/-- A well-formed configuration whose timebase runs (log 25): no delay and no step lasts a negative time. -/
structure Timed (cfg : Config) : Prop where
  ok : configOk cfg = true
  tick : 0 < cfg.fTick

theorem Timed.delay_nonneg (h : Timed cfg) (d : Delay) : 0 ≤ delayTime cfg d := by
  obtain ⟨-, -, -, -, -, -, -, delays, -⟩ := (configOk_iff cfg).1 h.ok
  exact delays d

theorem Timed.stepFloor_nonneg (h : Timed s.cfg) (t : State) : 0 ≤ stepFloor s t := by
  obtain ⟨-, -, -, -, -, -, -, -, rate⟩ := (configOk_iff s.cfg).1 h.ok
  exact Machine.stepFloor_nonneg s t rate.le h.tick.le

theorem OnRom.timed (hs : OnRom cfg s) (h : Timed cfg) : Timed s.cfg := hs.cfg_eq ▸ h

theorem Timed.waitLeft_nonneg (h : Timed s.cfg) (d : Delay) : 0 ≤ s.waitLeft d := by
  unfold State.waitLeft
  split
  · exact h.delay_nonneg d
  · exact mul_nonneg (Nat.cast_nonneg _) (tickTime_nonneg _ h.tick.le)

theorem Timed.heldFor_nonneg (h : Timed s.cfg) : 0 ≤ s.heldFor := by
  unfold State.heldFor
  split
  · exact h.waitLeft_nonneg _
  · exact le_rfl

/-- R422: the ticks a WAIT loads last its delay at least. -/
theorem delayTime_le_loadTicks_mul {d : Delay} (h : Timed cfg) (extra : Nat) :
    delayTime cfg d ≤ loadTicks cfg d extra * tickTime cfg :=
  le_ticks_mul_of_ceil_le h.tick
    ((delayTicks_eq_ceil h.tick.le (h.delay_nonneg d)).symm.trans_le (waitTicks_le_loadTicks cfg d extra))

/-- Each step of a WAIT takes from the time left no more than it lasts. -/
theorem waitLeft_le_stepFloor_add (h : Timed s.cfg) (hclock : t.sclk = s.sclk) (ht : t.timer = s.ticksAfterStep d) :
    s.waitLeft d ≤ stepFloor s t + s.ticksAfterStep d * tickTime s.cfg := by
  by_cases hzero : s.timer = 0
  · rw [waitLeft_of_timer_zero d hzero, s.ticksAfterStep_of_timer_zero d hzero]
    exact (delayTime_le_loadTicks_mul h s.extraTicks).trans (le_add_of_nonneg_left (h.stepFloor_nonneg t))
  · have counts := s.ticksAfterStep_of_timer_ne_zero d hzero
    have floor : stepFloor s t = tickTime s.cfg := by
      have falls : t.timer < s.timer := by omega
      simp [stepFloor, hclock, falls]
    have ticks : s.timer = s.ticksAfterStep d + 1 := by omega
    rw [waitLeft_of_timer_ne_zero d hzero, floor, ticks]
    push_cast
    linarith

/-- A step of a WAIT holds with the rest of its time left, or completes when no more was left than the step lasts. -/
theorem exec_wait_time (h : Timed s.cfg) (he : exec (.wait d) s = .next t) :
    (currentOp t = currentOp s ∧ s.waitLeft d ≤ stepFloor s t + t.waitLeft d)
      ∨ (t.timer = 0 ∧ s.waitLeft d ≤ stepFloor s t) := by
  by_cases hleft : s.ticksAfterStep d = 0
  · obtain rfl : (s.putTimer 0).advance = t := Host.Outcome.next.inj ((exec_wait_of_no_ticks_left hleft).symm.trans he)
    have time := waitLeft_le_stepFloor_add (t := (s.putTimer 0).advance) h rfl hleft.symm
    exact .inr ⟨rfl, by simpa [hleft] using time⟩
  · obtain rfl : s.putTimer (s.ticksAfterStep d) = t :=
      Host.Outcome.next.inj ((exec_wait_of_ticks_left hleft).symm.trans he)
    have time := waitLeft_le_stepFloor_add (t := s.putTimer (s.ticksAfterStep d)) h rfl rfl
    have rest := waitLeft_of_timer_ne_zero (s := s.putTimer (s.ticksAfterStep d)) d hleft
    exact .inl ⟨rfl, time.trans_eq (congrArg _ rest.symm)⟩

/-! ### The countdowns -/

/-- An event that only a micro-op other than WAIT makes is at least `heldFor` away. -/
theorem countdown_heldFor (h : Timed cfg) {second : PinEvent → Prop}
    (made : ∀ s t, sequencerStep s = .next t → ∀ x ∈ stepEvents s t, second x.2 →
      ∃ i, currentOp s = some i ∧ ∀ d, i ≠ .wait d) : Countdown (OnRom cfg) State.heldFor second where
  keeps := fun s t inp hs ht => sequencerStep_keeps_onRom hs ht inp
  lasts := fun s t hs => (hs.timed h).stepFloor_nonneg t
  step := by
    rintro s t inp ⟨rfl, -, -⟩ ht
    change s.heldFor ≤ stepFloor s t + t.heldFor
    have floor := h.stepFloor_nonneg t
    obtain ⟨c, -, rfl⟩ | ⟨i, hi, he⟩ := sequencerStep_cases ht
    · exact le_add_of_nonneg_left floor
    · obtain ⟨-, -, hop⟩ := (fetch_run_iff i).1 hi
      obtain ⟨hcfg, -⟩ := exec_parameters_eq he
      have rest : 0 ≤ t.heldFor := Timed.heldFor_nonneg (hcfg ▸ h)
      by_cases hw : ∃ d, i = .wait d
      · obtain ⟨d, rfl⟩ := hw
        rw [heldFor_of_wait hop]
        obtain ⟨hstay, time⟩ | ⟨-, time⟩ := exec_wait_time h he
        · rwa [heldFor_of_wait (hstay.trans hop)]
        · linarith
      · rw [heldFor_of_not_wait hop (not_exists.1 hw)]
        linarith
  emits := by
    rintro s t ⟨rfl, -, -⟩ ht x hx hsecond
    obtain ⟨i, hop, hi⟩ := made s t ht x hx hsecond
    rw [heldFor_of_not_wait hop hi]
    exact stamp_nonneg_of_mem_stepEvents hx (h.stepFloor_nonneg t)

theorem Timed.beforeCsd_nonneg (h : Timed s.cfg) : 0 ≤ s.beforeCsd := by
  unfold State.beforeCsd
  split
  · exact le_rfl
  · split
    · exact h.waitLeft_nonneg _
    · exact h.delay_nonneg .hold

/-- Away from CSD, and with no WAIT begun, the whole of `T_HOLD` is still to come. -/
theorem beforeCsd_of_timer_zero (hcsd : currentOp s ≠ some .csd) (htimer : s.timer = 0) : s.beforeCsd = s.cfg.tHold := by
  by_cases hhold : currentOp s = some (.wait .hold)
  · rw [beforeCsd_of_hold hhold, waitLeft_of_timer_zero _ htimer]
    rfl
  · exact beforeCsd_of_other hcsd hhold

/-- After a step of any micro-op but CSD and WAIT HOLD, the whole of `T_HOLD` is still to come. -/
theorem exec_beforeCsd_eq_tHold (h : Timed cfg) (hs : OnRom cfg s) (hop : currentOp s = some i) (he : exec i s = .next t)
    (hcsd : i ≠ .csd) (hhold : i ≠ .wait .hold) : t.beforeCsd = cfg.tHold := by
  have elsewhere : currentOp t ≠ some .csd := fun ht =>
    (hs.csd_entered_from_hold h.ok hop he ht).elim hcsd hhold
  obtain ⟨rfl, -, holds⟩ := hs
  obtain ⟨hcfg, -⟩ := exec_parameters_eq he
  rw [← hcfg]
  by_cases hw : ∃ d, i = .wait d
  · obtain ⟨d, rfl⟩ := hw
    obtain ⟨hstay, -⟩ | ⟨htimer, -⟩ := exec_wait_time h he
    · exact beforeCsd_of_other elsewhere (by simpa [hstay, hop] using hhold)
    · exact beforeCsd_of_timer_zero elsewhere htimer
  · have other := not_exists.1 hw
    exact beforeCsd_of_timer_zero elsewhere ((exec_timer_eq he other).trans (timer_eq_zero_of_owned holds hop other))

/-- A deselect is at least `beforeCsd` away. -/
theorem countdown_beforeCsd (h : Timed cfg) : Countdown (OnRom cfg) State.beforeCsd IsDeselect where
  keeps := fun s t inp hs ht => sequencerStep_keeps_onRom hs ht inp
  lasts := fun s t hs => (hs.timed h).stepFloor_nonneg t
  step := by
    intro s t inp hs ht
    change s.beforeCsd ≤ stepFloor s t + t.beforeCsd
    have timed := hs.timed h
    have floor := timed.stepFloor_nonneg t
    obtain ⟨c, -, rfl⟩ | ⟨i, hi, he⟩ := sequencerStep_cases ht
    · exact le_add_of_nonneg_left floor
    · obtain ⟨-, -, hop⟩ := (fetch_run_iff i).1 hi
      obtain ⟨hcfg, -⟩ := exec_parameters_eq he
      have rest : 0 ≤ t.beforeCsd := Timed.beforeCsd_nonneg (hcfg ▸ timed)
      by_cases hcsd : i = .csd
      · subst hcsd
        rw [beforeCsd_of_csd hop]
        linarith
      · by_cases hhold : i = .wait .hold
        · subst hhold
          rw [beforeCsd_of_hold hop]
          obtain ⟨hstay, time⟩ | ⟨-, time⟩ := exec_wait_time timed he
          · rwa [beforeCsd_of_hold (hstay.trans hop)]
          · linarith
        · have whole : s.beforeCsd = cfg.tHold := by
            rw [beforeCsd_of_other (by simpa [hop] using hcsd) (by simpa [hop] using hhold), hs.cfg_eq]
          rw [whole, exec_beforeCsd_eq_tHold h hs hop he hcsd hhold]
          linarith
  emits := by
    rintro s t ⟨rfl, -, -⟩ ht x hx ⟨n, he⟩
    obtain ⟨hop, -⟩ := currentOp_of_csOff ht hx he
    rw [beforeCsd_of_csd hop]
    exact stamp_nonneg_of_mem_stepEvents hx (h.stepFloor_nonneg t)

/-- The step of a CSA or CSD leaves the whole of the WAIT that follows it. -/
theorem heldFor_putCs_advance {n : Nat} {b : Bool} (h : Timed cfg) (hs : OnRom cfg s) (hop : currentOp s = some i)
    (hi : i = .csa ∨ i = .csd) (next : ∀ j, TimedPair i j → j = .wait d) :
    (s.putCs n b).advance.heldFor = delayTime cfg d := by
  have htimer : s.timer = 0 := timer_eq_zero_of_owned hs.holds hop (by obtain rfl | rfl := hi <;> simp)
  obtain ⟨j, hj, pair⟩ := hs.timedPair_of_movesOn (t := (s.putCs n b).advance) h.ok hop
    (by obtain rfl | rfl := hi <;> simp) rfl ⟨rfl, rfl⟩
  rw [heldFor_of_wait (next j pair ▸ hj), waitLeft_of_timer_zero (s := (s.putCs n b).advance) d htimer]
  exact congrArg (delayTime · d) hs.cfg_eq

/-- After a select the whole of `T_SETTLE` is still to come (R402). -/
theorem heldFor_of_csOn {x : ℚ × PinEvent} {n : Nat} (h : Timed cfg) (hs : OnRom cfg s) (ht : sequencerStep s = .next t)
    (hx : x ∈ stepEvents s t) (he : x.2 = .csOn n) : t.heldFor = cfg.tSettle := by
  obtain ⟨hop, rfl⟩ := currentOp_of_csOn ht hx he
  exact heldFor_putCs_advance h hs hop (.inl rfl) fun _ ⟨settle, _, _⟩ => settle rfl

/-- After a deselect the whole of `T_CS_IDLE` is still to come (R413). -/
theorem heldFor_of_csOff {x : ℚ × PinEvent} {n : Nat} (h : Timed cfg) (hs : OnRom cfg s) (ht : sequencerStep s = .next t)
    (hx : x ∈ stepEvents s t) (he : x.2 = .csOff n) : t.heldFor = cfg.tCsIdle := by
  obtain ⟨hop, rfl⟩ := currentOp_of_csOff ht hx he
  exact heldFor_putCs_advance h hs hop (.inr rfl) fun _ ⟨_, csIdle, _⟩ => csIdle rfl

/-- After an edge of the clock the whole of `T_HOLD` is still to come before a deselect (R412). -/
theorem beforeCsd_of_edge {x : ℚ × PinEvent} (h : Timed cfg) (hs : OnRom cfg s) (ht : sequencerStep s = .next t)
    (hx : x ∈ stepEvents s t) (he : x.2 = .sclkRise ∨ x.2 = .sclkFall) : t.beforeCsd = cfg.tHold := by
  obtain ⟨c, discard, w, k, hop, hexec⟩ := currentOp_of_edge ht hx he
  exact exec_beforeCsd_eq_tHold h hs hop hexec (by simp) (by simp)

/-! ### The three times in a trace -/

theorem selects_apart_from_rises (h : Timed cfg) (inp : Inputs) (inputs : List Inputs) :
    (timedTrace 0 inputs (poweredUp cfg inp)).Pairwise (Apart cfg.tSettle IsSelect (· = .sclkRise)) := by
  have countdown : Countdown (OnRom cfg) State.heldFor (· = .sclkRise) := countdown_heldFor h fun s t ht x hx he => by
    obtain ⟨c, discard, w, k, hop, -⟩ := currentOp_of_edge ht hx (.inl he)
    exact ⟨_, hop, by simp⟩
  refine countdown.apart (fun s t inp hs ht x hx ⟨n, he⟩ => ⟨fun y hy hrise => ?_, ?_⟩) inputs _ 0 (onRom_poweredUp cfg inp)
  · obtain ⟨hcsa, -⟩ := currentOp_of_csOn ht hx he
    obtain ⟨c, discard, w, k, hxfer, -⟩ := currentOp_of_edge ht hy (.inl hrise)
    simp [hcsa] at hxfer
  · exact (heldFor_of_csOn h hs ht hx he).ge

theorem falls_apart_from_deselects (h : Timed cfg) (inp : Inputs) (inputs : List Inputs) :
    (timedTrace 0 inputs (poweredUp cfg inp)).Pairwise (Apart cfg.tHold (· = .sclkFall) IsDeselect) := by
  refine (countdown_beforeCsd h).apart (fun s t inp hs ht x hx he => ⟨fun y hy ⟨n, hoff⟩ => ?_, ?_⟩) inputs _ 0
    (onRom_poweredUp cfg inp)
  · obtain ⟨c, discard, w, k, hxfer, -⟩ := currentOp_of_edge ht hx (.inr he)
    obtain ⟨hcsd, -⟩ := currentOp_of_csOff ht hy hoff
    simp [hcsd] at hxfer
  · exact (beforeCsd_of_edge h hs ht hx (.inr he)).ge

theorem deselects_apart_from_selects (h : Timed cfg) (inp : Inputs) (inputs : List Inputs) :
    (timedTrace 0 inputs (poweredUp cfg inp)).Pairwise (Apart cfg.tCsIdle IsDeselect IsSelect) := by
  have countdown : Countdown (OnRom cfg) State.heldFor IsSelect := countdown_heldFor h fun s t ht x hx ⟨n, he⟩ => by
    obtain ⟨hop, -⟩ := currentOp_of_csOn ht hx he
    exact ⟨_, hop, by simp⟩
  refine countdown.apart (fun s t inp hs ht x hx ⟨n, he⟩ => ⟨fun y hy ⟨m, hon⟩ => ?_, ?_⟩) inputs _ 0 (onRom_poweredUp cfg inp)
  · obtain ⟨hcsd, -⟩ := currentOp_of_csOff ht hx he
    obtain ⟨hcsa, -⟩ := currentOp_of_csOn ht hy hon
    simp [hcsd] at hcsa
  · exact (heldFor_of_csOff h hs ht hx he).ge

end Sys2Proof.Machine
end

section
/-!
PROOFS. The obligations on the selector's times (40_channel_select.md): the setup, hold and deselect times of the select lines, in
every run of the built ROM.
-/

namespace Sys2Proof.Proofs

open Sys2Proof Sys2Proof.Machine

/-- Settles O54: a CSA is followed by WAIT SETTLE, and an edge of the clock is made by an XFER. -/
theorem selectSetupTime : Obligations.SelectSetupTime := by
  intro cfg inp inputs hcfg htick before t1 n mid t2 after htrace _
  exact apart_of_pairwise (selects_apart_from_rises ⟨hcfg, htick⟩ inp inputs) htrace ⟨n, rfl⟩ rfl

/-- Settles O55: the ROM comes to a CSD from WAIT HOLD alone, and that WAIT begins after the XFER that made the falling edge. -/
theorem selectHoldTime : Obligations.SelectHoldTime := by
  intro cfg inp inputs hcfg htick before t1 mid n t2 after htrace
  exact apart_of_pairwise (falls_apart_from_deselects ⟨hcfg, htick⟩ inp inputs) htrace rfl ⟨n, rfl⟩

/-- Settles O56: a CSD is followed by WAIT CS_IDLE, and a select is made by a CSA. -/
theorem deselectTime : Obligations.DeselectTime := by
  intro cfg inp inputs hcfg htick before t1 n mid t2 m after htrace
  exact apart_of_pairwise (deselects_apart_from_selects ⟨hcfg, htick⟩ inp inputs) htrace ⟨n, rfl⟩ ⟨m, rfl⟩

end Sys2Proof.Proofs
end

section
/-!
SUPPORT. The exchange of one byte (R451, R455): an XFER as eight bit cells of two steps each, what each cell leaves, and the last
falling edge, which stores the byte.
-/

namespace Sys2Proof.Machine

open Sys2Proof

variable {op : Instr} {c : Command} {discard : Bool} {w : WordSel} {k : ByteSel} {s u : State} {x : Byte} {i : Nat}

/-! ### The checks of an XFER that starts (R461) -/

theorem exec_xfer_of_idle_bus (hidle : s.exchanging = false) :
    exec (.xfer c discard w k) s = .next (xferStart c discard w s) := by
  simp [exec, execXfer, hidle, sclk_eq_false_of_idle_bus hidle]

theorem xferStart_of_channel_out_of_range (hch : s.channelOk = false) : xferStart c discard w s = s.raise .chRange := by
  simp [xferStart, hch]

theorem xferStart_of_not_selected (hch : s.channelOk = true) (hsel : s.selected s.channel = false) :
    xferStart c discard w s = s.raise .csNotSelected := by
  simp [xferStart, hch, hsel]

theorem xferStart_of_mode (hch : s.channelOk = true) (hsel : s.selected s.channel = true)
    (hmode : turnForbidden s.cfg w = true) : xferStart c false w s = s.raise .mode := by
  simp [xferStart, hch, hsel, hmode]

/-! ### The last falling edge (R461) -/

/-- The state in which an XFER completes: `SCLK` has fallen, and `b` is stored unless it is discarded. -/
def State.completeXfer (s : State) (discard : Bool) (w : WordSel) (k : ByteSel) (b : Byte) : State :=
  if discard then s.clockFall.advance else (s.clockFall.putByte w k b).advance

theorem exec_xfer_of_last_high_half {b : Byte} (hclock : s.sclk = true) (hlast : s.bitcnt = 7) (hrx : s.rx = some b) :
    exec (.xfer c discard w k) s = .next (s.completeXfer discard w k b) := by
  simp [exec, execXfer, hclock, hlast, xferFinish, hrx, State.completeXfer]

theorem completeXfer_clock (s : State) (discard : Bool) (w : WordSel) (k : ByteSel) (b : Byte) :
    (s.completeXfer discard w k b).sclk = false ∧ (s.completeXfer discard w k b).bitcnt = s.bitcnt + 1 := by
  cases discard <;> simp [State.completeXfer]

theorem completeXfer_movesOn (s : State) (discard : Bool) (w : WordSel) (k : ByteSel) (b : Byte) :
    MovesOn s (s.completeXfer discard w k b) := by
  cases discard <;> simp [State.completeXfer, MovesOn]

theorem completeXfer_byteAt (s : State) (discard : Bool) (w : WordSel) (k : ByteSel) (b : Byte) (w' : WordSel) (k' : ByteSel) :
    (s.completeXfer discard w k b).byteAt w' k' =
      if discard = false ∧ w' = w ∧ k' = k then some b else s.byteAt w' k' := by
  cases discard <;> simp [State.completeXfer, State.byteAt_putByte]

theorem completeXfer_frame (s : State) (discard : Bool) (w : WordSel) (k : ByteSel) (b : Byte) :
    OnlyWrites [.sclk, .bitcnt, .wbPosition, .wbTurn, .upc, .upcCarry] s (s.completeXfer discard w k b) := by
  cases discard with
  | true => exact OnlyWrites.mono (advance_after_frame (clockFall_frame s)) (by simp)
  | false =>
    exact OnlyWrites.mono (advance_after_frame (OnlyWrites.trans (clockFall_frame s) (putByte_frame _ w k b)))
      (by cases w <;> simp)

/-! ### Bit cells -/

/-- The fields that whole bit cells, and the environment's moves in them, may write. -/
def exchangeFields : List Field := [.bitcnt, .tx, .rx, .miso, .mosi, .pubAck, .extraTicks]

/-- An exchange of the byte `x`, begun in `s`, is in `u` at the start of its bit cell `i`. -/
structure AtCell (op : Instr) (x : Byte) (s : State) (i : Nat) (u : State) : Prop where
  ready : exec op u = .next (u.clockRise x i)
  low : u.sclk = false
  frame : OnlyWrites exchangeFields s u

theorem atCell_zero (hidle : s.exchanging = false) (hch : s.ch.toNat < s.cfg.n) (hsel : s.selected s.ch.toNat = true)
    (hmode : discard = true ∨ w = .position ∨ s.cfg.mode = .multiTurn) :
    AtCell (.xfer c discard w k) (commandByte s.cfg c) s 0 s where
  ready := exec_xfer_of_checks_passed hidle (s.channelOk_iff.2 hch) hsel (by rwa [turnForbidden_eq_false_iff])
  low := sclk_eq_false_of_idle_bus hidle
  frame := OnlyWrites.refl _ s

/-- The middle of a bit cell: the rising edge, and the environment's move after it. -/
def State.middle (u : State) (x : Byte) (i : Nat) (a : Inputs) : State := (u.clockRise x i).drive a

theorem middle_frame (u : State) (x : Byte) (i : Nat) (a : Inputs) :
    OnlyWrites (.sclk :: exchangeFields) u (u.middle x i a) :=
  OnlyWrites.mono (OnlyWrites.trans (clockRise_frame u x i) (drive_frame _ a)) (by simp [exchangeFields])

theorem AtCell.middle_frame (h : AtCell op x s i u) (a : Inputs) :
    OnlyWrites (.sclk :: exchangeFields) s (u.middle x i a) :=
  OnlyWrites.mono (OnlyWrites.trans h.frame (Machine.middle_frame u x i a)) fun f hf => by simp at hf ⊢; tauto

/-- The end of a bit cell that is not the last: the falling edge, and the environment's move after it. -/
def State.cell (u : State) (x : Byte) (i : Nat) (a b : Inputs) : State := (u.middle x i a).clockFall.drive b

theorem exec_xfer_middle (hi : i < 7) (a : Inputs) :
    exec (.xfer c discard w k) (u.middle x i a) = .next (u.middle x i a).clockFall :=
  exec_xfer_of_high_half rfl hi

theorem AtCell.next (h : AtCell (.xfer c discard w k) x s i u) (hi : i < 7) (a b : Inputs) :
    AtCell (.xfer c discard w k) x s (i + 1) (u.cell x i a b) where
  ready := exec_xfer_of_low_half (s := u.cell x i a b) rfl (Nat.succ_pos i) (Nat.succ_lt_succ hi) rfl
  low := rfl
  frame := by
    intro f hf
    by_cases clock : f = .sclk
    · subst clock
      exact h.low.symm.trans (h.frame .sclk (by simp [exchangeFields]))
    · have written := OnlyWrites.trans (OnlyWrites.trans (h.middle_frame a) (clockFall_frame _)) (drive_frame _ b)
      exact written f (by simp [exchangeFields] at hf clock ⊢; tauto)

/-! ### Runs of an XFER -/

theorem execWith_append (op : Instr) (xs ys : List Inputs) :
    ∀ {s t : State}, execWith op xs s = .next t → execWith op (xs ++ ys) s = execWith op ys t := by
  induction xs with
  | nil => intro s t h; cases h; rfl
  | cons y xs ih =>
    intro s t h
    obtain ⟨v, hv, ht⟩ := (andThen_eq_next_iff _ _).1 h
    rw [List.cons_append, execWith_cons, hv, andThen_next, ih ht]

theorem AtCell.execWith_rise (h : AtCell op x s i u) (a : Inputs) : execWith op [a] u = .next (u.middle x i a) := by
  rw [execWith_cons, h.ready]
  rfl

theorem AtCell.execWith_cell (h : AtCell (.xfer c discard w k) x s i u) (hi : i < 7) (a b : Inputs) :
    execWith (.xfer c discard w k) [a, b] u = .next (u.cell x i a b) := by
  refine (execWith_append _ [a] [b] (h.execWith_rise a)).trans ?_
  rw [execWith_cons, exec_xfer_middle hi]
  rfl

/-- The bits latched in the first `i` cells are the first of `bits`, and `MISO` carries the next one. -/
structure Latched (bits : List Bool) (i : Nat) (u : State) : Prop where
  miso : u.miso = bits.getD i false
  latched : ∀ j < i, (u.rx.getD Config.freeRx).getLsbD (cellBit j) = bits.getD j false

theorem Latched.rise {bits : List Bool} (h : Latched bits i u) (hi : i < 8) :
    ∀ j < i + 1, (setBit (u.rx.getD Config.freeRx) (cellBit i) u.miso).getLsbD (cellBit j) = bits.getD j false := by
  intro j hj
  rw [getLsbD_setBit _ _ _ _ (by unfold cellBit; omega) (by unfold cellBit; omega)]
  by_cases hji : j = i
  · rw [hji, if_pos rfl, h.miso]
  · rw [if_neg (by unfold cellBit; omega)]
    exact h.latched j (by omega)

theorem Latched.next {bits : List Bool} (h : Latched bits i u) (hi : i < 8) (a b : Inputs)
    (hb : b.miso = bits.getD (i + 1) false) : Latched bits (i + 1) (u.cell x i a b) :=
  ⟨hb, h.rise hi⟩

/-! ### The received byte (R455) -/

theorem testBit_foldl_bits (bits : List Bool) :
    ∀ j < bits.length, (bits.foldl (fun n (b : Bool) => 2 * n + b.toNat) 0).testBit (bits.length - 1 - j) = bits.getD j false := by
  induction bits using List.reverseRecOn with
  | nil => simp
  | append_singleton bits b ih =>
    intro j hj
    rw [List.foldl_append, List.foldl_cons, List.foldl_nil, ← Nat.bit_val]
    rw [List.length_append, List.length_singleton] at hj ⊢
    obtain rfl | hj := Nat.eq_or_lt_of_le (Nat.le_of_lt_succ hj)
    · simp
    · rw [show bits.length + 1 - 1 - j = (bits.length - 1 - j) + 1 by omega, Nat.testBit_bit_succ, ih j hj,
        List.getD_append _ _ _ _ hj]

theorem eq_receivedByte {bits : List Bool} {r : Byte} (hlen : bits.length = 8)
    (h : ∀ j < 8, r.getLsbD (cellBit j) = bits.getD j false) : r = receivedByte bits := by
  refine BitVec.eq_of_getLsbD_eq fun n hn => ?_
  have bit := testBit_foldl_bits bits (7 - n) (by omega)
  rw [hlen, show 8 - 1 - (7 - n) = n by omega, ← h (7 - n) (by omega), show cellBit (7 - n) = n by unfold cellBit; omega] at bit
  rw [receivedByte, BitVec.getLsbD_ofNat, bit]
  simp [hn]

theorem length_sampledBits (first : Bool) (inputs : List Inputs) : (sampledBits first inputs).length = 8 := by
  simp [sampledBits]

theorem sampledBits_succ (first : Bool) (inputs : List Inputs) (hi : i < 7) (hlen : 2 * i + 1 < inputs.length) :
    (sampledBits first inputs).getD (i + 1) false = inputs[2 * i + 1].miso := by
  simp [sampledBits, hi, hlen]

/-! ### The whole exchange -/

theorem take_cell {inputs : List Inputs} (h : 2 * i + 1 < inputs.length) :
    inputs.take (2 * (i + 1)) = inputs.take (2 * i) ++ [inputs[2 * i], inputs[2 * i + 1]] := by
  rw [show 2 * (i + 1) = 2 * i + 1 + 1 by omega, List.take_succ_eq_append_getElem h,
    List.take_succ_eq_append_getElem (by omega), List.append_assoc, List.singleton_append]

/-- After two steps for each of `i` bit cells an XFER is at its bit cell `i`, and has latched the bits sampled in them. -/
theorem execWith_reaches_cell {inputs : List Inputs} (h : AtCell (.xfer c discard w k) x s 0 s) (hlen : inputs.length = 16)
    (hi : i ≤ 7) :
    ∃ u, execWith (.xfer c discard w k) (inputs.take (2 * i)) s = .next u ∧ AtCell (.xfer c discard w k) x s i u
      ∧ Latched (sampledBits s.miso inputs) i u := by
  induction i with
  | zero => exact ⟨s, rfl, h, rfl, by simp⟩
  | succ i ih =>
    obtain ⟨u, hu, cell, latched⟩ := ih (by omega)
    have hcell : 2 * i + 1 < inputs.length := by omega
    refine ⟨u.cell x i inputs[2 * i] inputs[2 * i + 1], ?_, cell.next hi _ _, latched.next (by omega) _ _ ?_⟩
    · rw [take_cell hcell, execWith_append _ _ _ hu, cell.execWith_cell hi]
    · exact (sampledBits_succ _ _ hi hcell).symm

/-- The fields that an exchange run to its end may write. -/
def wholeExchangeFields : List Field :=
  [.wbPosition, .wbTurn, .upc, .upcCarry, .bitcnt, .tx, .rx, .miso, .mosi, .pubAck, .extraTicks]

/-- R451: the sixteen steps, with all the bits latched in the byte that is stored. -/
theorem execWith_completes_exchange {inputs : List Inputs} (h : AtCell (.xfer c discard w k) x s 0 s)
    (hlen : inputs.length = 16) :
    ∃ u a b, execWith (.xfer c discard w k) inputs s
        = .next (((u.middle x 7 a).completeXfer discard w k (receivedByte (sampledBits s.miso inputs))).drive b)
      ∧ AtCell (.xfer c discard w k) x s 7 u := by
  obtain ⟨u, hu, cell, latched⟩ := execWith_reaches_cell h hlen (le_refl 7)
  refine ⟨u, inputs[14], inputs[15], ?_, cell⟩
  have split : inputs = inputs.take (2 * 7) ++ [inputs[14], inputs[15]] := by
    rw [← take_cell (i := 7) (by omega), List.take_of_length_le (by omega)]
  have stored : (u.middle x 7 inputs[14]).rx = some (receivedByte (sampledBits s.miso inputs)) :=
    congrArg some (eq_receivedByte (length_sampledBits _ _) (latched.rise (by decide)))
  conv_lhs => rw [split]
  rw [execWith_append _ _ _ hu, ← List.singleton_append, execWith_append _ _ _ (cell.execWith_rise _), execWith_cons,
    exec_xfer_of_last_high_half rfl rfl stored]
  rfl

theorem completed_exchange_frame (h : AtCell op x s i u) (a b : Inputs) (r : Byte) :
    OnlyWrites wholeExchangeFields s (((u.middle x i a).completeXfer discard w k r).drive b) := by
  intro f hf
  by_cases clock : f = .sclk
  · subst clock
    have fallen : (((u.middle x i a).completeXfer discard w k r).drive b).sclk = false := by
      obtain ⟨low, -⟩ := completeXfer_clock (u.middle x i a) discard w k r
      exact low
    exact fallen.trans (h.low.symm.trans (h.frame .sclk (by simp [exchangeFields])))
  · have written := OnlyWrites.trans (OnlyWrites.trans (h.middle_frame a) (completeXfer_frame _ discard w k r)) (drive_frame _ b)
    exact written f (by simp [exchangeFields, wholeExchangeFields] at hf clock ⊢; tauto)

end Sys2Proof.Machine
end

section
/-!
PROOFS. The obligations on one XFER (41_frame_reader.md section 2): its checks, its last falling edge, and the exchange as a whole.
-/

namespace Sys2Proof.Proofs

open Sys2Proof Sys2Proof.Machine

/-- Settles O16: the three checks of `xferStart`, in their order. -/
theorem xferChecksInOrder : Obligations.XferChecksInOrder := by
  intro s c discard w k hidle
  rw [exec_xfer_of_idle_bus hidle]
  refine ⟨fun hch => ?_, fun hch hsel => ?_, ?_⟩
  · rw [xferStart_of_channel_out_of_range (s.channelOk_eq_false_iff.2 hch)]
  · rw [xferStart_of_not_selected (s.channelOk_iff.2 hch) hsel]
  · rintro hch hsel rfl rfl hmode
    rw [xferStart_of_mode (s.channelOk_iff.2 hch) hsel ((turnForbidden_iff _ _).2 ⟨rfl, hmode⟩)]

/-- Settles O18: the last falling edge leads to `State.completeXfer`. -/
theorem xferStoresTheByte : Obligations.XferStoresTheByte := by
  intro s c discard w k b hclock hlast hrx
  obtain ⟨low, count⟩ := completeXfer_clock s discard w k b
  exact ⟨_, exec_xfer_of_last_high_half hclock hlast hrx, low, count.trans (congrArg (· + 1) hlast), completeXfer_movesOn s discard w k b,
    completeXfer_byteAt s discard w k b, completeXfer_frame s discard w k b⟩

/-- Settles O19: by induction on the bit cells; the last one completes the XFER with the eight latched bits. -/
theorem xferExchangesOneByte : Obligations.XferExchangesOneByte := by
  intro s c discard w k inputs hidle hch hsel hmode hlen
  have start := atCell_zero (c := c) (k := k) hidle hch hsel hmode
  refine ⟨?_, fun i hi => ?_⟩
  · obtain ⟨u, a, b, hrun, cell⟩ := execWith_completes_exchange start hlen
    set r := receivedByte (sampledBits s.miso inputs)
    set v := u.middle (commandByte s.cfg c) 7 a
    have kept := cell.middle_frame a
    have upc : v.upc = s.upc := kept .upc (by decide)
    have bytes (w' : WordSel) (k' : ByteSel) : v.byteAt w' k' = s.byteAt w' k' := by
      have position : v.wbPosition = s.wbPosition := kept .wbPosition (by decide)
      have turn : v.wbTurn = s.wbTurn := kept .wbTurn (by decide)
      cases w' <;> cases k' <;> simp only [State.byteAt, position, turn]
    obtain ⟨low, count⟩ := completeXfer_clock v discard w k r
    obtain ⟨hupc, hcarry⟩ := completeXfer_movesOn v discard w k r
    rw [upc] at hupc hcarry
    refine ⟨_, hrun, ⟨hupc, hcarry⟩, low, count, fun w' k' => ?_, completed_exchange_frame cell a b r⟩
    rw [State.drive_byteAt, completeXfer_byteAt, bytes]
  · obtain ⟨u, hu, cell, -⟩ := execWith_reaches_cell start hlen (Nat.le_of_lt_succ hi)
    refine ⟨u.middle (commandByte s.cfg c) i inputs[2 * i], ?_, rfl, rfl, ?_, ?_⟩
    · rw [List.take_succ_eq_append_getElem (by omega), execWith_append _ _ _ hu, cell.execWith_rise]
    · exact cell.middle_frame _ .upc (by decide)
    · exact cell.middle_frame _ .cs (by decide)

end Sys2Proof.Proofs
end

section
/-!
SUPPORT. The clock of an exchange in the stamped trace (R451 to R453, R456): the events of a step that leaves the select lines as they
are, the least time between a clock edge and what precedes it, and the trace of the eight bit cells.
-/

namespace Sys2Proof.Machine

open Sys2Proof

variable {s t u : State} {cfg : Config}

/-! ### The events of a step that selects and deselects nothing -/

theorem selectEvents_of_cs_eq (h : t.cs = s.cs) : selectEvents s t = [] := by
  simp [selectEvents, State.selected, h]

/-- A step from `s` to `t` that changes no select line and no handshake, and completes no LED. -/
structure BusOnly (s t : State) : Prop where
  cs : t.cs = s.cs
  pubReq : t.pubReq = s.pubReq
  led : fetch s ≠ .run .led

theorem BusOnly.stepEvents_of_rise (h : BusOnly s t) (hs : s.sclk = false) (ht : t.sclk = true) :
    stepEvents s t = [(0, .mosi t.mosi), (halfBit s.cfg, .sclkRise), (halfBit s.cfg, .sample s.miso)] := by
  simp [stepEvents, endEvents, stepFloor, hs, ht, selectEvents_of_cs_eq h.cs, h.pubReq, h.led]

theorem BusOnly.stepEvents_of_fall (h : BusOnly s t) (hs : s.sclk = true) (ht : t.sclk = false) :
    stepEvents s t = [(halfBit s.cfg, .sclkFall)] := by
  simp [stepEvents, endEvents, stepFloor, hs, ht, selectEvents_of_cs_eq h.cs, h.pubReq, h.led]

theorem BusOnly.stepEvents_of_no_edge (h : BusOnly s t) (ht : t.sclk = s.sclk) : stepEvents s t = [] := by
  simp [stepEvents, endEvents, ht, selectEvents_of_cs_eq h.cs, h.pubReq, h.led]

theorem stepFloor_of_edge (h : t.sclk ≠ s.sclk) : stepFloor s t = halfBit s.cfg := if_pos (Ne.symm h)

/-! ### Half a bit time before every clock edge (R452, R453, R456) -/

/-- The events `SCLK_RISE` and `SCLK_FALL`. -/
def IsEdge (e : PinEvent) : Prop := e = .sclkRise ∨ e = .sclkFall

theorem stepFloor_of_mem_edge {e : PinEvent} (h : e ∈ endEvents s t) (he : IsEdge e) : stepFloor s t = halfBit s.cfg := by
  have change := reportsChange_of_mem_endEvents h
  refine stepFloor_of_edge ?_
  obtain rfl | rfl := he <;> obtain ⟨hs, ht⟩ := change <;> simp [hs, ht]

theorem edges_of_step_agree {e e' : PinEvent} (h : e ∈ endEvents s t) (h' : e' ∈ endEvents s t) (he : IsEdge e)
    (he' : IsEdge e') : e = e' := by
  have change := reportsChange_of_mem_endEvents h
  have change' := reportsChange_of_mem_endEvents h'
  obtain rfl | rfl := he <;> obtain rfl | rfl := he' <;> simp_all [ReportsChange]

theorem mosi_not_mem_endEvents (b : Bool) : PinEvent.mosi b ∉ endEvents s t := by
  have select : PinEvent.mosi b ∉ selectEvents s t := by
    intro h
    obtain ⟨n, -, hn⟩ := List.mem_filterMap.1 h
    split at hn
    · simp at hn
    · split at hn <;> simp at hn
  simp [endEvents, select]

/-- The pairs of events that R452, R453 and R456 keep half a bit time apart. -/
def ClockPair (e1 e2 : PinEvent) : Prop :=
  (e1 = .sclkRise ∧ e2 = .sclkFall) ∨ (e1 = .sclkFall ∧ e2 = .sclkRise) ∨ ((∃ b, e1 = .mosi b) ∧ e2 = .sclkRise)

theorem ClockPair.isEdge {e1 e2 : PinEvent} (h : ClockPair e1 e2) : IsEdge e2 := by
  obtain ⟨-, h⟩ | ⟨-, h⟩ | ⟨-, h⟩ := h
  · exact .inr h
  · exact .inl h
  · exact .inl h

/-- Half a bit time lies between two events of a trace, where they are such a pair. -/
def ClockApart (cfg : Config) (x y : ℚ × PinEvent) : Prop := ClockPair x.2 y.2 → halfBit cfg ≤ y.1 - x.1

theorem not_clockPair_of_mem_endEvents {e1 e2 : PinEvent} (h1 : e1 ∈ endEvents s t) (h2 : e2 ∈ endEvents s t) :
    ¬ ClockPair e1 e2 := by
  rintro (⟨rfl, rfl⟩ | ⟨rfl, rfl⟩ | ⟨⟨b, rfl⟩, -⟩)
  · cases edges_of_step_agree h1 h2 (.inl rfl) (.inr rfl)
  · cases edges_of_step_agree h1 h2 (.inr rfl) (.inl rfl)
  · exact mosi_not_mem_endEvents b h1

theorem pairwise_clockApart_stepEvents (s t : State) : (stepEvents s t).Pairwise (ClockApart s.cfg) := by
  rw [stepEvents, List.pairwise_append]
  refine ⟨?_, ?_, ?_⟩
  · split <;> simp
  · exact List.pairwise_map.2 (List.pairwise_of_forall_mem_list fun e he e' he' pair =>
      absurd pair (not_clockPair_of_mem_endEvents he he'))
  · intro x hx y hy pair
    obtain ⟨-, rfl⟩ := List.mem_ite_nil_right.1 hx |>.imp_right List.mem_singleton.1
    obtain ⟨e, he, rfl⟩ := List.mem_map.1 hy
    rw [stepFloor_of_mem_edge he pair.isEdge, sub_zero]

theorem sequencerStep_cfg_eq (h : sequencerStep s = .next t) : t.cfg = s.cfg :=
  sequencerStep_invariant (P := fun u => u.cfg = s.cfg) (fun _ _ hs => hs)
    (fun _ _ _ _ hs he => (exec_parameters_eq he).1.trans hs) rfl h

/-- A clock edge is never less than half a bit time away. -/
theorem countdown_halfBit (hacq : 0 ≤ cfg.fAcq) (htick : 0 ≤ cfg.fTick) :
    Countdown (fun s => s.cfg = cfg) (fun _ => halfBit cfg) IsEdge where
  keeps := fun _ _ _ hs ht => (sequencerStep_cfg_eq ht).trans hs
  lasts := by
    rintro s t rfl
    exact stepFloor_nonneg s t hacq htick
  step := by
    rintro s t inp rfl -
    exact le_add_of_nonneg_left (stepFloor_nonneg s t hacq htick)
  emits := by
    rintro s t rfl - x hx hedge
    obtain ⟨-, b, hb⟩ | ⟨hstamp, he⟩ := mem_stepEvents_cases hx
    · obtain h | h := hedge <;> cases hb.symm.trans h
    · rw [hstamp, stepFloor_of_mem_edge he hedge]

theorem pairwise_clockApart_timedTrace (hacq : 0 ≤ cfg.fAcq) (htick : 0 ≤ cfg.fTick) (inputs : List Inputs) :
    ∀ (s : State) (now : ℚ), s.cfg = cfg → (timedTrace now inputs s).Pairwise (ClockApart cfg) := by
  have countdown := countdown_halfBit hacq htick
  induction inputs with
  | nil => exact fun s now _ => List.Pairwise.nil
  | cons inp rest ih =>
    intro s now hs
    obtain hnil | ⟨t, ht, htrace⟩ := timedTrace_cons_cases now inp rest s
    · rw [hnil]
      exact List.Pairwise.nil
    · have hs' := countdown.keeps s t inp hs ht
      rw [htrace, List.pairwise_append]
      refine ⟨?_, ih (t.drive inp) _ hs', ?_⟩
      · refine List.pairwise_map.2 ((pairwise_clockApart_stepEvents s t).imp fun apart pair => ?_)
        rw [← hs, add_sub_add_left_eq_sub]
        exact apart pair
      · intro x' hx' y hy pair
        obtain ⟨x, hx, rfl⟩ := List.mem_map.1 hx'
        have stamp := stamp_le_of_mem_stepEvents hx (countdown.lasts s t hs)
        have later := countdown.le_stamp rest (t.drive inp) _ hs' y hy pair.isEdge
        simp only
        linarith

/-! ### The trace of an exchange -/

/-- The stamped events of the bit cells of `x` from cell `i` on, one for each sampled bit, when half a cell lasts `h`. -/
def cellsTrace (h : ℚ) (x : Byte) : Nat → List Bool → ℚ → List (ℚ × PinEvent)
  | _, [], _ => []
  | i, m :: samples, now =>
    (now, .mosi (x.getLsbD (cellBit i))) :: (now + h, .sclkRise) :: (now + h, .sample m) :: (now + h + h, .sclkFall)
      :: cellsTrace h x (i + 1) samples (now + h + h)

theorem countEvents_cellsTrace (h : ℚ) (x : Byte) (samples : List Bool) :
    ∀ (i : Nat) (now : ℚ), countEvents .sclkRise (cellsTrace h x i samples now) = samples.length
      ∧ countEvents .sclkFall (cellsTrace h x i samples now) = samples.length := by
  induction samples with
  | nil => exact fun i now => ⟨rfl, rfl⟩
  | cons m samples ih =>
    intro i now
    obtain ⟨rises, falls⟩ := ih (i + 1) (now + h + h)
    exact ⟨congrArg (· + 1) rises, congrArg (· + 1) falls⟩

theorem drivenBits_cellsTrace (h : ℚ) (x : Byte) (samples : List Bool) :
    ∀ (i : Nat) (now : ℚ), drivenBits ((cellsTrace h x i samples now).map Prod.snd)
      = (List.range' i samples.length).map fun j => x.getLsbD (cellBit j) := by
  induction samples with
  | nil => exact fun i now => rfl
  | cons m samples ih => exact fun i now => congrArg (x.getLsbD (cellBit i) :: ·) (ih (i + 1) (now + h + h))

/-- The trace of one cell or more ends with a falling edge, when all its halves have passed. -/
theorem cellsTrace_eq_concat (h : ℚ) (x : Byte) (samples : List Bool) :
    ∀ (i : Nat) (m : Bool) (now : ℚ), ∃ mid, cellsTrace h x i (m :: samples) now
      = (now, .mosi (x.getLsbD (cellBit i))) :: (mid ++ [(now + (samples.length + 1) * (h + h), .sclkFall)]) := by
  induction samples with
  | nil => exact fun i m now => ⟨[(now + h, .sclkRise), (now + h, .sample m)], by simp [cellsTrace, add_assoc]⟩
  | cons m' samples ih =>
    intro i m now
    obtain ⟨mid, hmid⟩ := ih (i + 1) m' (now + h + h)
    refine ⟨(now + h, .sclkRise) :: (now + h, .sample m) :: (now + h + h, .sclkFall)
      :: (now + h + h, .mosi (x.getLsbD (cellBit (i + 1)))) :: mid, ?_⟩
    rw [cellsTrace, hmid]
    simp only [List.cons_append, List.length_cons, Nat.cast_succ]
    rw [show now + h + h + (samples.length + 1) * (h + h) = now + (samples.length + 1 + 1) * (h + h) by ring]

/-- The fields a fetch reads. -/
def fetchFields : List Field := [.cfg, .rom, .upc, .upcCarry, .fault]

theorem fetch_eq_of_same (h : ∀ f ∈ fetchFields, f.same s t) : fetch t = fetch s := by
  simp only [fetchFields, List.forall_mem_cons, Field.same] at h
  obtain ⟨cfg, rom, upc, upcCarry, fault, -⟩ := h
  simp only [fetch, cfg, rom, upc, upcCarry, fault]

theorem fetch_eq_of_frame {fs : List Field} (h : OnlyWrites fs s t) (hfs : ∀ f ∈ fetchFields, f ∉ fs) : fetch t = fetch s :=
  fetch_eq_of_same fun f hf => h f (hfs f hf)

section

variable {c : Command} {discard : Bool} {w : WordSel} {k : ByteSel} {x : Byte} {i : Nat}

/-- The XFER is fetched again in both halves of a bit cell. -/
theorem AtCell.fetch_cell (h : AtCell (.xfer c discard w k) x s i u) (hrun : fetch s = .run (.xfer c discard w k)) (a : Inputs) :
    fetch u = .run (.xfer c discard w k) ∧ fetch (u.middle x i a) = .run (.xfer c discard w k) :=
  ⟨(fetch_eq_of_frame h.frame (by decide)).trans hrun, (fetch_eq_of_frame (h.middle_frame a) (by decide)).trans hrun⟩

/-- The events of one bit cell, whose second step leads to `t`. -/
theorem AtCell.timedTrace_cell (h : AtCell (.xfer c discard w k) x s i u) (hrun : fetch s = .run (.xfer c discard w k))
    (now : ℚ) (a b : Inputs) (rest : List Inputs) (ht : exec (.xfer c discard w k) (u.middle x i a) = .next t)
    (hlow : t.sclk = false) :
    ∃ m, timedTrace now (a :: b :: rest) u
      = (now, .mosi (x.getLsbD (cellBit i))) :: (now + halfBit s.cfg, .sclkRise) :: (now + halfBit s.cfg, .sample m)
        :: (now + halfBit s.cfg + halfBit s.cfg, .sclkFall)
        :: timedTrace (now + halfBit s.cfg + halfBit s.cfg) rest (t.drive b) := by
  obtain ⟨fetch_u, fetch_v⟩ := h.fetch_cell hrun a
  have cfg_u : u.cfg = s.cfg := h.frame .cfg (by decide)
  have cfg_v : (u.middle x i a).cfg = s.cfg := h.middle_frame a .cfg (by decide)
  have rise : BusOnly u (u.clockRise x i) := ⟨rfl, rfl, by simp [fetch_u]⟩
  have fall : BusOnly (u.middle x i a) t :=
    ⟨exec_frame ht .cs fun hf => by simpa using owner_of_mem_writtenBy hf, (exec_handshake_eq ht (by simp)).1, by simp [fetch_v]⟩
  have events_rise := rise.stepEvents_of_rise h.low rfl
  have events_fall := fall.stepEvents_of_fall rfl hlow
  have floor_rise : stepFloor u (u.clockRise x i) = halfBit u.cfg := stepFloor_of_edge (by simp [h.low])
  have floor_fall : stepFloor (u.middle x i a) t = halfBit (u.middle x i a).cfg :=
    stepFloor_of_edge (hlow.trans_ne (by simp [State.middle]))
  refine ⟨u.miso, ?_⟩
  rw [timedTrace_cons now a _ ((sequencerStep_of_fetch fetch_u).trans h.ready), events_rise, floor_rise]
  change _ ++ timedTrace _ (b :: rest) (u.middle x i a) = _
  rw [timedTrace_cons _ b rest ((sequencerStep_of_fetch fetch_v).trans ht), events_fall, floor_fall, cfg_u, cfg_v]
  simp

/-- R451, R456: the trace from bit cell `i` to the end of the exchange. -/
theorem AtCell.timedTrace_eq_cellsTrace (hrun : fetch s = .run (.xfer c discard w k)) (m : Nat) :
    ∀ (i : Nat) (u : State) (now : ℚ) (inputs : List Inputs), AtCell (.xfer c discard w k) x s i u → i + m = 7 →
      inputs.length = 2 * (m + 1) →
        ∃ samples, samples.length = m + 1 ∧ timedTrace now inputs u = cellsTrace (halfBit s.cfg) x i samples now := by
  induction m with
  | zero =>
    rintro i u now inputs h rfl hlen
    obtain ⟨a, b, rfl⟩ := List.length_eq_two.1 hlen
    obtain ⟨low, -⟩ := completeXfer_clock (u.middle x 7 a) discard w k (setBit (u.rx.getD Config.freeRx) (cellBit 7) u.miso)
    obtain ⟨m, htrace⟩ := h.timedTrace_cell hrun now a b [] (exec_xfer_of_last_high_half rfl rfl rfl) low
    exact ⟨[m], rfl, htrace⟩
  | succ m ih =>
    rintro i u now inputs h hi hlen
    obtain ⟨a, b, rest, rfl⟩ : ∃ a b rest, inputs = a :: b :: rest := by
      match inputs, hlen with
      | a :: b :: rest, _ => exact ⟨a, b, rest, rfl⟩
    obtain ⟨bit, htrace⟩ := h.timedTrace_cell hrun now a b rest (exec_xfer_middle (by omega) a) rfl
    obtain ⟨samples, length, later⟩ := ih (i + 1) _ (now + halfBit s.cfg + halfBit s.cfg) rest (h.next (by omega) a b)
      (by omega) (by simp only [List.length_cons] at hlen; omega)
    exact ⟨bit :: samples, congrArg (· + 1) length, htrace.trans (by rw [cellsTrace, ← later]; rfl)⟩

end

end Sys2Proof.Machine
end

section
/-!
PROOFS. The obligation on the rate of the clock (41_frame_reader.md section 1).
-/

namespace Sys2Proof.Proofs

open Sys2Proof Sys2Proof.Machine

/-- Settles O60: a step that makes a clock edge lasts half a bit time and no step makes two; and the trace of an exchange is that of
its eight bit cells. -/
theorem clockNeverFasterThanRate : Obligations.ClockNeverFasterThanRate := by
  intro s inputs now hacq
  refine ⟨fun htick before t1 e1 mid t2 e2 after htrace pair => ?_, fun c discard w k hrun hidle hch hsel hmode hlen => ?_⟩
  · have apart := pairwise_clockApart_timedTrace hacq.le htick inputs s now rfl
    rw [htrace] at apart
    obtain ⟨-, later, -⟩ := List.pairwise_append.1 apart
    obtain ⟨later, -⟩ := List.pairwise_cons.1 later
    exact later (t2, e2) (by simp) pair
  · have start := atCell_zero (c := c) (k := k) hidle hch hsel hmode
    obtain ⟨samples, length, htrace⟩ := AtCell.timedTrace_eq_cellsTrace hrun 7 0 s now inputs start rfl hlen
    obtain ⟨m, samples, rfl⟩ := List.exists_cons_of_length_eq_add_one length
    obtain ⟨rises, falls⟩ := countEvents_cellsTrace (halfBit s.cfg) (commandByte s.cfg c) (m :: samples) 0 now
    have bits := drivenBits_cellsTrace (halfBit s.cfg) (commandByte s.cfg c) (m :: samples) 0 now
    obtain ⟨mid, hmid⟩ := cellsTrace_eq_concat (halfBit s.cfg) (commandByte s.cfg c) samples 0 m now
    rw [hmid, length] at rises falls bits
    refine ⟨_, mid, _, htrace.trans hmid, ?_, ?_, ?_, ?_⟩
    · simpa [countEvents] using rises
    · simpa [countEvents] using falls
    · simpa [drivenBits, byteBits, cellBit, List.range_eq_range'] using bits
    · rw [List.length_cons, Nat.add_right_cancel_iff] at length
      rw [length, halfBit]
      linarith

end Sys2Proof.Proofs
end

section
/-!
SUPPORT. Where a run of the built ROM stands (R690 to R693): the micro-ops ahead of it, what each kind of micro-op has ahead of it in
the ROM, and the step of a run that emits an event of its trace.
-/

namespace Sys2Proof.Machine

open Sys2Proof

variable {cfg : Config} {i : Instr} {s t : State} {a : Addr} {ops : List Instr}

/-! ### The micro-ops ahead -/

/-- The micro-ops of the ROM from `upc` on. -/
def State.ahead (cfg : Config) (s : State) : List Instr :=
  if s.upcCarry then [] else (romOps cfg).drop s.upc.toNat

@[simp] theorem ahead_drive (cfg : Config) (s : State) (inp : Inputs) : (s.drive inp).ahead cfg = s.ahead cfg := rfl

@[simp] theorem ahead_raise (cfg : Config) (s : State) (c : FaultCode) : (s.raise c).ahead cfg = s.ahead cfg := rfl

theorem ahead_eq_of_same (hupc : t.upc = s.upc) (hcarry : t.upcCarry = s.upcCarry) : t.ahead cfg = s.ahead cfg := by
  rw [State.ahead, State.ahead, hupc, hcarry]

theorem ahead_suffix (cfg : Config) (s : State) : s.ahead cfg <:+ romOps cfg := by
  unfold State.ahead
  split
  · exact List.nil_suffix
  · exact List.drop_suffix _ _

theorem OnRom.currentOp_eq_head? (hs : OnRom cfg s) : currentOp s = (s.ahead cfg).head? := by
  rw [currentOp_of_buildRom hs.rom_eq, State.ahead]
  cases s.upcCarry <;> simp [List.head?_drop]

theorem OnRom.exists_ahead_eq_cons (hs : OnRom cfg s) (hop : currentOp s = some i) : ∃ ops, s.ahead cfg = i :: ops := by
  rw [hs.currentOp_eq_head?, List.head?_eq_some_iff] at hop
  exact hop

theorem OnRom.currentOp_of_ahead (hs : OnRom cfg s) (h : s.ahead cfg = i :: ops) : currentOp s = some i := by
  rw [hs.currentOp_eq_head?, h, List.head?_cons]

theorem ahead_of_movesOn (hcfg : configOk cfg = true) (h : MovesOn s t) (hs : s.ahead cfg = i :: ops) : t.ahead cfg = ops := by
  obtain ⟨hupc, hcarry⟩ := h
  have rest : (romOps cfg).drop (s.upc.toNat + 1) = ops := by
    unfold State.ahead at hs
    split at hs
    · cases hs
    · rw [← List.drop_drop, hs, List.drop_one, List.tail_cons]
  rw [State.ahead, hupc, hcarry, ← rest]
  by_cases hlast : s.upc = 0xFF
  · have length := length_romOps_le hcfg
    simp [hlast, length]
  · have next : (s.upc + 1).toNat = s.upc.toNat + 1 := by
      have : s.upc.toNat ≠ 0xFF := fun h => hlast (BitVec.eq_of_toNat_eq h)
      rw [BitVec.toNat_add]
      simp
      omega
    rw [if_neg (by simpa using hlast), next]

/-- The micro-ops of the body, from GO to its JMP (R691, R692). -/
def romBody (cfg : Config) : List Instr := bodyHead ++ bodyTail cfg.mode (romBase cfg)

theorem drop_romOps_body (cfg : Config) (k : Nat) : (romOps cfg).drop (romBase cfg + k) = (romBody cfg).drop k := by
  rw [romOps, romBody, ← List.drop_drop, List.drop_left' (by simp [romBase])]

/-- R691, R692: what is ahead after NXT is the body from its CSA on; after JMP, from its CHS 0 on. -/
theorem ahead_of_jump (hcfg : configOk cfg = true) (hmem : i ∈ romOps cfg) (hi : i = .nxt a ∨ i = .jmp a) (hupc : t.upc = a)
    (hcarry : t.upcCarry = false) : t.ahead cfg = (romBody cfg).drop 1 ∨ t.ahead cfg = (romBody cfg).drop 2 := by
  rw [State.ahead, hupc, hcarry]
  obtain rfl | rfl := hi
  · rw [nxt_mem_romOps hmem, toNat_bodyAddress hcfg (by decide)]
    exact .inr (drop_romOps_body cfg 2)
  · rw [jmp_mem_romOps hmem, toNat_bodyAddress hcfg (by decide)]
    exact .inl (drop_romOps_body cfg 1)

/-- Where a micro-op of the ROM leads: it stays, moves on to the micro-op after it, or jumps into the body. -/
theorem exec_ahead_cases (hcfg : configOk cfg = true) (hops : s.ahead cfg = i :: ops) (h : exec i s = .next t) :
    t.ahead cfg = i :: ops ∨ (MovesOn s t ∧ t.ahead cfg = ops)
      ∨ ((∃ a, i = .nxt a ∨ i = .jmp a) ∧ (t.ahead cfg = (romBody cfg).drop 1 ∨ t.ahead cfg = (romBody cfg).drop 2)) := by
  obtain ⟨hupc, hcarry⟩ | hmoves | ⟨a, hi, hupc, hcarry⟩ := exec_upc_cases h
  · exact .inl ((ahead_eq_of_same hupc hcarry).trans hops)
  · exact .inr (.inl ⟨hmoves, ahead_of_movesOn hcfg hmoves hops⟩)
  · have hmem : i ∈ romOps cfg := (ahead_suffix cfg s).subset (hops ▸ List.mem_cons_self)
    exact .inr (.inr ⟨⟨a, hi⟩, ahead_of_jump hcfg hmem hi hupc hcarry⟩)

/-! ### What the ROM has ahead of a micro-op -/

/-- Along these micro-ops no XFER comes before a CSA. -/
def SelectsFirst : List Instr → Prop
  | [] => True
  | i :: ops =>
    match i with
    | .xfer _ _ _ _ => False
    | .csa => True
    | _ => SelectsFirst ops

theorem SelectsFirst.tail (h : SelectsFirst (i :: ops)) (hi : i ≠ .csa) : SelectsFirst ops := by
  cases i with
  | csa => exact absurd rfl hi
  | xfer c discard w k => exact h.elim
  | _ => exact h

/-- What the ROM puts after the `k`-th XFER of a selection: WAIT TURN after the second and WAIT SETTLE after another, or the way to
the next selection. -/
def GapAfter (k : Nat) (ops : List Instr) : Prop :=
  SelectsFirst ops ∨ ∃ rest, ops = .wait (if k = 2 then .turn else .settle) :: rest

/-- The rest of a selection whose first `k` XFERs are done: XFERs, each with its gap, and WAITs up to the CSD. -/
def Spaced : Nat → List Instr → Prop
  | _, [] => False
  | k, i :: ops =>
    match i with
    | .csd => True
    | .wait _ => Spaced k ops
    | .xfer _ _ _ _ => GapAfter (k + 1) ops ∧ Spaced (k + 1) ops
    | _ => False

/-- The bits that the XFERs before the next CSD send (R205). -/
def bitsBeforeCsd (cfg : Config) : List Instr → List Bool
  | [] => []
  | i :: ops =>
    match i with
    | .csd => []
    | .xfer c _ _ _ => byteBits (commandByte cfg c) ++ bitsBeforeCsd cfg ops
    | _ => bitsBeforeCsd cfg ops

/-- The command bytes of a zero-set, and those of a reading in either mode (R471 to R473, R475). -/
def selectionBytes (cfg : Config) (zeroSet : Bool) : List Byte :=
  if zeroSet then [cfg.cmdRead, cfg.cmdZeroSet]
  else if cfg.mode = .singleTurn then [cfg.cmdRead, cfg.cmdRead]
  else [cfg.cmdRead, cfg.cmdReadTurn, cfg.cmdRead, cfg.cmdRead]

/-- What the ROM has ahead of a CSA, a CSD or a jump. A further CSA (CSD) ahead marks those of the zero-set preamble. -/
def HasAhead (cfg : Config) (i : Instr) (ops : List Instr) : Prop :=
  match i with
  | .csa => Spaced 0 ops ∧ bitsBeforeCsd cfg ops = (selectionBytes cfg (0 < ops.count .csa)).flatMap byteBits
  | .csd => SelectsFirst ops ∧ (0 < ops.count .csd → ∃ rest, ops = .wait .csIdle :: .wait .zero :: rest)
  | .nxt _ | .jmp _ => ops.count .csa = 0 ∧ ops.count .csd = 0
  | _ => True

/-- Each micro-op of the list has ahead of it what the ROM has. -/
def LaidOut (cfg : Config) : List Instr → Prop
  | [] => True
  | i :: ops => HasAhead cfg i ops ∧ LaidOut cfg ops

theorem LaidOut.of_suffix {l : List Instr} (h : LaidOut cfg l) (hsuffix : i :: ops <:+ l) : HasAhead cfg i ops := by
  induction l with
  | nil => simp at hsuffix
  | cons j l ih =>
    obtain ⟨head, tail⟩ := h
    obtain heq | hsuffix := List.suffix_cons_iff.1 hsuffix
    · cases heq
      exact head
    · exact ih tail hsuffix

/-- In the body nothing more is selected or deselected before it jumps back. -/
theorem laidOut_body (cfg : Config) : LaidOut cfg (romBody cfg) := by
  unfold romBody
  have noFurther {ops : List Instr} (h : ops.count .csd = 0) (hfirst : SelectsFirst ops) : HasAhead cfg .csd ops :=
    ⟨hfirst, fun hpos => absurd h hpos.ne'⟩
  cases hm : cfg.mode with
  | singleTurn =>
    have bytes : selectionBytes cfg false = [cfg.cmdRead, cfg.cmdRead] := by simp [selectionBytes, hm]
    have csa : HasAhead cfg .csa ((bodyHead ++ bodyTail .singleTurn (romBase cfg)).drop 3) :=
      ⟨⟨.inr ⟨_, rfl⟩, .inl trivial, trivial⟩, congrArg (List.flatMap byteBits) bytes.symm⟩
    have csd : HasAhead cfg .csd ((bodyTail .singleTurn (romBase cfg)).drop 3) := noFurther rfl trivial
    exact ⟨trivial, trivial, csa, trivial, trivial, trivial, trivial, trivial, csd, trivial, trivial, trivial, trivial, ⟨rfl, rfl⟩,
      trivial, trivial, ⟨rfl, rfl⟩, trivial⟩
  | multiTurn =>
    have bytes : selectionBytes cfg false = [cfg.cmdRead, cfg.cmdReadTurn, cfg.cmdRead, cfg.cmdRead] := by
      simp [selectionBytes, hm]
    have csa : HasAhead cfg .csa ((bodyHead ++ bodyTail .multiTurn (romBase cfg)).drop 3) :=
      ⟨⟨.inr ⟨_, rfl⟩, .inr ⟨_, rfl⟩, .inr ⟨_, rfl⟩, .inl trivial, trivial⟩, congrArg (List.flatMap byteBits) bytes.symm⟩
    have csd : HasAhead cfg .csd ((bodyTail .multiTurn (romBase cfg)).drop 7) := noFurther rfl trivial
    exact ⟨trivial, trivial, csa, trivial, trivial, trivial, trivial, trivial, trivial, trivial, trivial, trivial, csd, trivial,
      trivial, trivial, trivial, trivial, trivial, ⟨rfl, rfl⟩, trivial, trivial, ⟨rfl, rfl⟩, trivial⟩

/-- The body selects once and deselects once, after each of the two jumps too. -/
theorem count_body (cfg : Config) (k : Nat) (hk : k ≤ 2) :
    ((romBody cfg).drop k).count .csa = 1 ∧ ((romBody cfg).drop k).count .csd = 1 := by
  unfold romBody
  interval_cases k <;> cases cfg.mode <;> exact ⟨rfl, rfl⟩

theorem selectsFirst_body (cfg : Config) (k : Nat) (hk : k ≤ 2) : SelectsFirst ((romBody cfg).drop k) := by
  unfold romBody
  interval_cases k <;> exact trivial

theorem count_zeroSetOps (c : Nat) : (zeroSetOps c).count .csa = 1 ∧ (zeroSetOps c).count .csd = 1 := ⟨rfl, rfl⟩

theorem preambleOps_cons_append (c : Nat) (channels : List Nat) (ops : List Instr) :
    preambleOps (c :: channels) ++ ops = zeroSetOps c ++ (preambleOps channels ++ ops) := List.append_assoc _ _ _

/-- The preamble for one more channel, before micro-ops that select. -/
theorem laidOut_zeroSetOps_append (c : Nat) (hops : LaidOut cfg ops) (hcsa : 0 < ops.count .csa) (hfirst : SelectsFirst ops) :
    LaidOut cfg (zeroSetOps c ++ ops) := by
  have further : 0 < ((zeroSetOps c).drop 2 ++ ops).count .csa := by rw [List.count_append]; omega
  have bytes : selectionBytes cfg (0 < ((zeroSetOps c).drop 2 ++ ops).count .csa) = [cfg.cmdRead, cfg.cmdZeroSet] := by
    rw [selectionBytes, decide_eq_true further, if_pos rfl]
  have selection : HasAhead cfg .csa ((zeroSetOps c).drop 2 ++ ops) :=
    ⟨⟨.inr ⟨_, rfl⟩, .inl hfirst, trivial⟩, congrArg (List.flatMap byteBits) bytes.symm⟩
  exact ⟨trivial, selection, trivial, trivial, trivial, trivial, trivial, ⟨hfirst, fun _ => ⟨ops, rfl⟩⟩, trivial, trivial, hops⟩

theorem count_preambleOps_append (channels : List Nat) (ops : List Instr) :
    (preambleOps channels ++ ops).count .csa = channels.length + ops.count .csa
      ∧ (preambleOps channels ++ ops).count .csd = channels.length + ops.count .csd := by
  induction channels with
  | nil => simp [preambleOps]
  | cons c channels ih =>
    obtain ⟨csa, csd⟩ := ih
    obtain ⟨csa', csd'⟩ := count_zeroSetOps c
    rw [preambleOps_cons_append, List.count_append (l₁ := zeroSetOps c), List.count_append (l₁ := zeroSetOps c), csa, csd, csa',
      csd', List.length_cons]
    omega

theorem laidOut_preambleOps_append (hops : LaidOut cfg ops) (hcsa : 0 < ops.count .csa)
    (hfirst : SelectsFirst ops) :
    ∀ channels, LaidOut cfg (preambleOps channels ++ ops) ∧ SelectsFirst (preambleOps channels ++ ops)
  | [] => ⟨hops, hfirst⟩
  | c :: channels => by
    obtain ⟨laid, first⟩ := laidOut_preambleOps_append hops hcsa hfirst channels
    obtain ⟨csa, -⟩ := count_preambleOps_append channels ops
    rw [preambleOps_cons_append]
    exact ⟨laidOut_zeroSetOps_append c laid (by omega) first, trivial⟩

theorem laidOut_romOps (cfg : Config) : LaidOut cfg (romOps cfg) := by
  obtain ⟨csa, -⟩ := count_body cfg 0 (by decide)
  obtain ⟨laid, -⟩ := laidOut_preambleOps_append (ops := romBody cfg) (laidOut_body cfg) (by simpa using csa.symm.le)
    (selectsFirst_body cfg 0 (by decide)) cfg.zeroSetChannels
  exact laid

theorem hasAhead_of_ahead (h : s.ahead cfg = i :: ops) : HasAhead cfg i ops :=
  (laidOut_romOps cfg).of_suffix (h ▸ ahead_suffix cfg s)

theorem count_romOps (cfg : Config) :
    (romOps cfg).count .csa = cfg.zeroSetChannels.length + 1 ∧ (romOps cfg).count .csd = cfg.zeroSetChannels.length + 1 := by
  obtain ⟨csa, csd⟩ := count_preambleOps_append cfg.zeroSetChannels (romBody cfg)
  obtain ⟨csa', csd'⟩ := count_body cfg 0 (by decide)
  rw [List.drop_zero] at csa' csd'
  exact ⟨csa.trans (by rw [csa']), csd.trans (by rw [csd'])⟩

/-! ### The events of a run, without their stamps -/

theorem runWith_cons_cases {inp : Inputs} {rest : List Inputs} (h : runWith (inp :: rest) s = .next t) :
    ∃ u, sequencerStep s = .next u ∧ runWith rest (u.drive inp) = .next t := by
  obtain ⟨v, hv, hrest⟩ := (andThen_eq_next_iff _ _).1 (runWith_cons inp rest s ▸ h)
  obtain ⟨u, hu, rfl⟩ := stepWith_cases hv
  exact ⟨u, hu, hrest⟩

theorem map_snd_timedTrace (now : ℚ) (inputs : List Inputs) (s : State) :
    (timedTrace now inputs s).map Prod.snd = pinTrace inputs s := by
  rw [pinTrace, ← zero_add now, timedTrace_shift, List.map_map]
  rfl

theorem pinTrace_cons (h : sequencerStep s = .next t) (inp : Inputs) (rest : List Inputs) :
    pinTrace (inp :: rest) s = (stepEvents s t).map Prod.snd ++ pinTrace rest (t.drive inp) := by
  rw [← map_snd_timedTrace 0, timedTrace_cons _ _ _ h, List.map_append, List.map_map, map_snd_timedTrace]
  rfl

theorem countEvents_eq_count (e : PinEvent) (tr : List (ℚ × PinEvent)) : countEvents e tr = (tr.map Prod.snd).count e := by
  rw [countEvents, List.count, List.countP_map, List.countP_eq_length_filter]
  rfl

/-! ### The step that emits an event -/

/-- In a trace `before ++ x :: after` that began in `s` at `now`, the event `x` is emitted by the step to `t` that comes after the
run `done`; the environment then drives `inp`, and the run goes on with `rest`. -/
structure EmittedAfter (now : ℚ) (s : State) (before : List (ℚ × PinEvent)) (x : ℚ × PinEvent) (after : List (ℚ × PinEvent))
    (done : List Inputs) (u t : State) (inp : Inputs) (rest : List Inputs) : Prop where
  reach : runWith done s = .next u
  step : sequencerStep u = .next t
  events : ∃ first y last, stepEvents u t = first ++ y :: last ∧ x = (now + lasted done s + y.1, y.2)
    ∧ before = timedTrace now done s ++ first.map (fun e => (now + lasted done s + e.1, e.2))
    ∧ after = last.map (fun e => (now + lasted done s + e.1, e.2))
      ++ timedTrace (now + lasted done s + stepFloor u t) rest (t.drive inp)

section

variable {now : ℚ} {before after : List (ℚ × PinEvent)} {x : ℚ × PinEvent} {done rest : List Inputs} {inp inp' : Inputs}
  {u v : State}

theorem EmittedAfter.cons (h : sequencerStep s = .next t)
    (hx : EmittedAfter (now + stepFloor s t) (t.drive inp) before x after done u v inp' rest) :
    EmittedAfter now s ((stepEvents s t).map (fun e => (now + e.1, e.2)) ++ before) x after (inp :: done) u v inp' rest := by
  obtain ⟨hreach, hstep, first, y, last, hevents, hx, hbefore, hafter⟩ := hx
  have time : now + lasted (inp :: done) s = now + stepFloor s t + lasted done (t.drive inp) := by
    simp only [lasted, h, add_assoc]
  refine ⟨?_, hstep, first, y, last, hevents, by rw [time, hx], ?_, by rw [time, hafter]⟩
  · rw [runWith_cons, stepWith_of_sequencerStep h, andThen_next, hreach]
  · rw [time, hbefore, timedTrace_cons _ _ _ h, List.append_assoc]

/-- Every event of a trace is emitted by a step of the run. -/
theorem exists_emittedAfter (inputs : List Inputs) :
    ∀ (s : State) (now : ℚ) (before : List (ℚ × PinEvent)), timedTrace now inputs s = before ++ x :: after →
      ∃ done u t inp rest, EmittedAfter now s before x after done u t inp rest := by
  induction inputs with
  | nil => intro s now before h; simp [timedTrace] at h
  | cons inp rest ih =>
    intro s now before h
    obtain hnil | ⟨t, ht, htrace⟩ := timedTrace_cons_cases now inp rest s
    · simp [hnil] at h
    · rw [htrace] at h
      have later (mid : List (ℚ × PinEvent)) (hrest : timedTrace (now + stepFloor s t) rest (t.drive inp) = mid ++ x :: after) :
          ∃ done u v inp' rest', EmittedAfter now s ((stepEvents s t).map (fun e => (now + e.1, e.2)) ++ mid) x after
            done u v inp' rest' := by
        obtain ⟨done, u, v, inp', rest', hx⟩ := ih _ _ _ hrest
        exact ⟨inp :: done, u, v, inp', rest', hx.cons ht⟩
      obtain ⟨mid, rfl, hrest⟩ | ⟨mid, hevents, hmid⟩ := List.append_eq_append_iff.1 h
      · exact later mid hrest
      · cases mid with
        | nil =>
          rw [List.append_nil] at hevents
          simpa [hevents] using later [] hmid.symm
        | cons z mid =>
          obtain ⟨rfl, rfl⟩ := List.cons_eq_cons.1 hmid
          obtain ⟨first, more, hsplit, rfl, hmore⟩ := List.map_eq_append_iff.1 hevents
          obtain ⟨y, last, rfl, rfl, rfl⟩ := List.map_eq_cons_iff.1 hmore
          exact ⟨[], s, t, inp, rest, rfl, ht, first, y, last, hsplit, by simp [lasted, timedTrace]⟩

theorem EmittedAfter.exists_mem (h : EmittedAfter now s before x after done u t inp rest) :
    ∃ y ∈ stepEvents u t, y.2 = x.2 := by
  obtain ⟨first, y, last, hevents, rfl, -⟩ := h.events
  exact ⟨y, by simp [hevents], rfl⟩

/-- What comes before the event includes the trace of the run that leads to it. -/
theorem EmittedAfter.subset_before (h : EmittedAfter now s before x after done u t inp rest) :
    timedTrace now done s ⊆ before := by
  obtain ⟨first, y, last, -, -, rfl, -⟩ := h.events
  exact List.subset_append_left _ _

/-- An event that is the only one of its step, at the step's end, splits the run as it splits the trace. -/
theorem EmittedAfter.of_singleton {e : PinEvent} (h : EmittedAfter now s before x after done u t inp rest)
    (hevents : stepEvents u t = [(stepFloor u t, e)]) :
    x.2 = e ∧ before = timedTrace now done s ∧ after = timedTrace x.1 rest (t.drive inp) := by
  obtain ⟨first, y, last, hsplit, rfl, hbefore, hafter⟩ := h.events
  rw [hevents] at hsplit
  obtain ⟨rfl, rfl, rfl⟩ : first = [] ∧ y = (stepFloor u t, e) ∧ last = [] := by
    cases first with
    | nil => simpa [eq_comm] using hsplit
    | cons z first => simp at hsplit
  exact ⟨rfl, by simpa using hbefore, by simpa using hafter⟩

end

end Sys2Proof.Machine
end

section
/-!
SUPPORT. What every run of the built ROM keeps, its exchanges and arrays included, and the one event of a step that selects or
deselects (R401, R411).
-/

namespace Sys2Proof.Machine

open Sys2Proof

variable {cfg : Config} {i : Instr} {s t : State}

/-! ### What a run keeps -/

/-- In an exchange `TX` holds the command byte that the XFER at `upc` names (log 26). -/
def CommandLoaded (s : State) : Prop :=
  s.exchanging = true → ∀ c discard w k, currentOp s = some (.xfer c discard w k) → s.tx = some (commandByte s.cfg c)

theorem exec_keeps_commandLoaded (hop : currentOp s = some i) (hs : CommandLoaded s) (h : exec i s = .next t)
    (idle : (∀ c discard w k, i ≠ .xfer c discard w k) → s.exchanging = false) : CommandLoaded t := by
  have loaded_of_idle (h : t.exchanging = false) : CommandLoaded t := by simp [CommandLoaded, h]
  by_cases hx : ∃ c discard w k, i = .xfer c discard w k
  · obtain ⟨c, discard, w, k, rfl⟩ := hx
    obtain ⟨-, -, rfl⟩ | ⟨-, -, -, rfl⟩ | ⟨-, -, -, -, -, rfl⟩ | ⟨-, -, -, -, rfl⟩ | ⟨-, -, -, rfl⟩ | ⟨x, -, he, hx, rfl⟩
      | ⟨hc, -, rfl⟩ | ⟨-, h7, -, rfl⟩ | ⟨-, -, -, -, rfl⟩ | ⟨b, -, h7, -, -, rfl⟩ := exec_xfer_cases h
    · exact hs
    · exact hs
    · exact hs
    · intro _ c' discard' w' k' hop'
      obtain ⟨rfl, -⟩ : c = c' ∧ _ := by simpa using hop.symm.trans hop'
      rfl
    · exact hs
    · intro _ c' discard' w' k' hop'
      exact hx.symm.trans (hs he c' discard' w' k' hop')
    · exact fun _ => hs (s.exchanging_of_sclk hc)
    · exact loaded_of_idle (exchanging_clockFall_last h7)
    · exact hs
    · exact loaded_of_idle (by simpa using exchanging_clockFall_last h7)
  · have other : ∀ c discard w k, i ≠ .xfer c discard w k := by simpa using hx
    obtain ⟨hsclk, hbitcnt⟩ := exec_clock_eq h other
    refine loaded_of_idle ?_
    rw [State.exchanging, hsclk, hbitcnt]
    exact idle other

/-- What every run of the built ROM keeps, in its exchanges and its arrays too. -/
structure Running (cfg : Config) (s : State) : Prop extends OnRom cfg s where
  shaped : Shaped s
  loaded : CommandLoaded s

theorem running_poweredUp (cfg : Config) (inp : Inputs) : Running cfg (poweredUp cfg inp) where
  toOnRom := onRom_poweredUp cfg inp
  shaped := by simp [Shaped, poweredUp, State.powerUp]
  loaded := by simp [CommandLoaded, State.exchanging, poweredUp, State.powerUp]

theorem Running.next (hs : Running cfg s) (h : sequencerStep s = .next t) (inp : Inputs) : Running cfg (t.drive inp) := by
  have kept : Shaped t ∧ CommandLoaded t ∧ HoldsOwned t := by
    refine sequencerStep_invariant (P := fun u => Shaped u ∧ CommandLoaded u ∧ HoldsOwned u) (fun _ _ hs => hs) ?_
      ⟨hs.shaped, hs.loaded, hs.holds⟩ h
    rintro i s t hop ⟨shaped, loaded, holds⟩ he
    exact ⟨exec_keeps_shaped he shaped, exec_keeps_commandLoaded hop loaded he (exchanging_eq_false_of_owned holds hop),
      exec_keeps_holdsOwned hop holds he⟩
  obtain ⟨shaped, loaded, -⟩ := kept
  exact ⟨sequencerStep_keeps_onRom hs.toOnRom h inp, shaped, loaded⟩

theorem Running.run (hs : Running cfg s) {done : List Inputs} (h : runWith done s = .next t) : Running cfg t :=
  runWith_invariant (Running cfg) (fun inp s t hs h => by
    obtain ⟨u, hu, rfl⟩ := stepWith_cases h
    exact hs.next hu inp) done s t hs h

/-- A step of the micro-op at `upc` records a fault, or is what the micro-op does. -/
theorem sequencerStep_of_currentOp (hop : currentOp s = some i) (h : sequencerStep s = .next t) :
    (∃ c, t = s.raise c) ∨ exec i s = .next t := by
  obtain ⟨c, -, rfl⟩ | ⟨j, hj, he⟩ := sequencerStep_cases h
  · exact .inl ⟨c, rfl⟩
  · obtain ⟨-, -, hop'⟩ := (fetch_run_iff j).1 hj
    cases hop.symm.trans hop'
    exact .inr he

theorem fetch_ne_run_led (hop : currentOp s = some i) (hi : i ≠ .led) : fetch s ≠ .run .led := by
  intro h
  obtain ⟨-, -, hop'⟩ := (fetch_run_iff _).1 h
  exact hi (Option.some.inj (hop.symm.trans hop'))

theorem stepEvents_raise (hop : currentOp s = some i) (hi : i ≠ .led) (c : FaultCode) : stepEvents s (s.raise c) = [] :=
  BusOnly.stepEvents_of_no_edge ⟨rfl, rfl, fetch_ne_run_led hop hi⟩ rfl

theorem busOnly_of_exec (hop : currentOp s = some i) (h : exec i s = .next t)
    (hi : (∃ d, i = .wait d) ∨ ∃ c discard w k, i = .xfer c discard w k) : BusOnly s t := by
  have others : i ≠ .csa ∧ i ≠ .csd ∧ i ≠ .pub ∧ i ≠ .led := by
    obtain ⟨d, rfl⟩ | ⟨c, discard, w, k, rfl⟩ := hi <;> simp
  obtain ⟨hcsa, hcsd, hpub, hled⟩ := others
  exact ⟨exec_cs_eq h hcsa hcsd, (exec_handshake_eq h hpub).1, fetch_ne_run_led hop hled⟩

/-! ### The steps that select and deselect (R401, R411) -/

theorem filterMap_range_eq_singleton {α : Type} {f : Nat → Option α} {j : Nat} {b : α} (hj : f j = some b)
    (hother : ∀ m, m ≠ j → f m = none) : ∀ n, j < n → (List.range n).filterMap f = [b]
  | 0, h => by simp at h
  | n + 1, h => by
    rw [List.range_succ, List.filterMap_append]
    obtain rfl | hlt := Nat.eq_or_lt_of_le (Nat.le_of_lt_succ h)
    · have before : (List.range j).filterMap f = [] :=
        List.filterMap_eq_nil_iff.2 fun m hm => hother m (List.mem_range.1 hm).ne
      simp [before, hj]
    · simp [filterMap_range_eq_singleton hj hother n hlt, hother n (by omega)]

/-- The event of the step that writes `b` to `CS[n]`. -/
def selectEvent (n : Nat) (b : Bool) : PinEvent := if b then .csOn n else .csOff n

theorem selectEvents_putCs {n : Nat} {b : Bool} (hn : n < s.cfg.n) (hbefore : s.selected n = !b)
    (hafter : (s.putCs n b).selected n = b) : selectEvents s (s.putCs n b).advance = [selectEvent n b] := by
  refine filterMap_range_eq_singleton (j := n) ?_ (fun m hm => ?_) _ hn
  · cases b <;> simp [hbefore, hafter, selectEvent]
  · cases h : s.selected m <;> simp [State.selected_putCs_ne s n m b hm, h]

/-- The step that writes `b` to `CS[CH]` has that one event, at its end. -/
theorem stepEvents_putCs {b : Bool} (hop : currentOp s = some i) (hled : i ≠ .led) (hch : s.channelOk = true)
    (hbefore : s.selected s.channel = !b) (hafter : (s.putCs s.channel b).selected s.channel = b) :
    stepEvents s (s.putCs s.channel b).advance
      = [(stepFloor s (s.putCs s.channel b).advance, selectEvent s.channel b)] := by
  have select := selectEvents_putCs (n := s.channel) (s.channelOk_iff.1 hch) hbefore hafter
  simp [stepEvents, endEvents, select, fetch_ne_run_led hop hled]

/-- CSA faults, or moves on with its one event. -/
theorem Running.csa_step (hs : Running cfg s) (hop : currentOp s = some .csa) (h : sequencerStep s = .next t) :
    (∃ c, t = s.raise c) ∨ (t = (s.putCs s.channel true).advance ∧ stepEvents s t = [(stepFloor s t, .csOn s.channel)]) := by
  obtain hraise | he := sequencerStep_of_currentOp hop h
  · exact .inl hraise
  · obtain ⟨-, rfl⟩ | ⟨-, -, rfl⟩ | ⟨hch, hnone, rfl⟩ := exec_csa_cases he
    · exact .inl ⟨_, rfl⟩
    · exact .inl ⟨_, rfl⟩
    · obtain ⟨length, -⟩ := hs.shaped
      exact .inr ⟨rfl, stepEvents_putCs hop (by simp) hch (not_selected_of_anySelected_eq_false hs.shaped hnone _)
        (s.selected_putCs_self _ _ (length ▸ s.channelOk_iff.1 hch))⟩

/-- CSD faults, or moves on with its one event. -/
theorem csd_step (hop : currentOp s = some .csd) (h : sequencerStep s = .next t) :
    (∃ c, t = s.raise c) ∨ (t = (s.putCs s.channel false).advance ∧ stepEvents s t = [(stepFloor s t, .csOff s.channel)]) := by
  obtain hraise | he := sequencerStep_of_currentOp hop h
  · exact .inl hraise
  · obtain ⟨-, rfl⟩ | ⟨-, -, rfl⟩ | ⟨hch, hsel, rfl⟩ := exec_csd_cases he
    · exact .inl ⟨_, rfl⟩
    · exact .inl ⟨_, rfl⟩
    · exact .inr ⟨rfl, stepEvents_putCs hop (by simp) hch hsel (s.selected_putCs_false _)⟩

end Sys2Proof.Machine
end

section
/-!
SUPPORT. A selection of a run of the built ROM, between its CSA and its CSD: the bits it has left to drive and the falling edges it has
made; and a run between two selections, which makes no clock edge before it selects.
-/

namespace Sys2Proof.Machine

open Sys2Proof

variable {cfg : Config} {i : Instr} {s t u : State} {ops : List Instr} {k k' : Nat}

/-! ### The steps of an XFER in a run (R451) -/

/-- The falling edges made in the exchange under way. -/
def State.fallsDone (s : State) : Nat := if s.exchanging then s.bitcnt else 0

/-- The bits driven on `MOSI` in the exchange under way. -/
def State.bitsDriven (s : State) : Nat := s.fallsDone + s.sclk.toNat

theorem fallsDone_of_idle_bus (h : s.exchanging = false) : s.fallsDone = 0 := by simp [State.fallsDone, h]

theorem bitsDriven_of_idle_bus (h : s.exchanging = false) : s.bitsDriven = 0 := by
  simp [State.bitsDriven, fallsDone_of_idle_bus h, sclk_eq_false_of_idle_bus h]

theorem fallsDone_of_sclk (h : s.sclk = true) : s.fallsDone = s.bitcnt := by
  simp [State.fallsDone, s.exchanging_of_sclk h]

theorem bitcnt_lt_of_exchanging (hs : HoldsOwned s) (h : s.exchanging = true) : s.bitcnt < 8 := by
  obtain ⟨-, -, -, -, -, clock⟩ := hs
  cases hc : s.sclk with
  | true => exact clock hc
  | false =>
    simp only [State.exchanging, hc, Bool.false_or, Bool.and_eq_true, Nat.blt_eq] at h
    obtain ⟨-, h8⟩ := h
    exact h8

/-- An XFER in a run faults, or makes the next edge of its clock; the last one completes it. -/
theorem Running.xfer_step {c : Command} {discard : Bool} {w : WordSel} {k : ByteSel} (hs : Running cfg s)
    (hop : currentOp s = some (.xfer c discard w k)) (h : exec (.xfer c discard w k) s = .next t) :
    (∃ e, t = s.raise e)
      ∨ (s.sclk = false ∧ s.fallsDone < 8 ∧ t = s.clockRise (commandByte cfg c) s.fallsDone)
      ∨ (s.sclk = true ∧ s.bitcnt < 7 ∧ t = s.clockFall)
      ∨ (s.sclk = true ∧ s.bitcnt = 7 ∧ ∃ b, t = s.completeXfer discard w k b) := by
  obtain ⟨-, -, rfl⟩ | ⟨-, -, -, rfl⟩ | ⟨-, -, -, -, -, rfl⟩ | ⟨he, -, -, -, rfl⟩ | ⟨-, -, -, rfl⟩ | ⟨x, hc, he, hx, rfl⟩
    | ⟨hc, h7, rfl⟩ | ⟨hc, h7, rfl, rfl⟩ | ⟨-, -, -, -, rfl⟩ | ⟨b, hc, h7, rfl, -, rfl⟩ := exec_xfer_cases h
  · exact .inl ⟨_, rfl⟩
  · exact .inl ⟨_, rfl⟩
  · exact .inl ⟨_, rfl⟩
  · rw [fallsDone_of_idle_bus he, hs.cfg_eq]
    exact .inr (.inl ⟨sclk_eq_false_of_idle_bus he, by simp, rfl⟩)
  · exact .inl ⟨_, rfl⟩
  · have falls : s.fallsDone = s.bitcnt := by simp [State.fallsDone, he]
    have loaded : x = commandByte cfg c := Option.some.inj (hx.symm.trans (hs.cfg_eq ▸ hs.loaded he _ _ _ _ hop))
    rw [falls, loaded]
    exact .inr (.inl ⟨hc, bitcnt_lt_of_exchanging hs.holds he, rfl⟩)
  · exact .inr (.inr (.inl ⟨hc, h7, rfl⟩))
  · have := bitcnt_lt_of_exchanging hs.holds (s.exchanging_of_sclk hc)
    exact .inr (.inr (.inr ⟨hc, by omega, 0, rfl⟩))
  · exact .inl ⟨_, rfl⟩
  · have := bitcnt_lt_of_exchanging hs.holds (s.exchanging_of_sclk hc)
    exact .inr (.inr (.inr ⟨hc, by omega, b, rfl⟩))

/-! ### A run inside a selection -/

/-- The bits that a run will drive before the next CSD. -/
def State.bitsLeft (cfg : Config) (s : State) : List Bool := (bitsBeforeCsd cfg (s.ahead cfg)).drop s.bitsDriven

/-- A run from `s` to `t` with the events `tr` stays inside a selection of which `k` XFERs were done in `s` and `k'` are in `t`: it
drives the bits that were left in `s` and no more are in `t`, and makes eight falling edges for each XFER. -/
structure InSelection (cfg : Config) (k : Nat) (s : State) (tr : List PinEvent) (k' : Nat) (t : State) : Prop where
  spaced : Spaced k' (t.ahead cfg)
  channel : t.ch = s.ch
  bits : drivenBits tr ++ t.bitsLeft cfg = s.bitsLeft cfg
  falls : 8 * k + s.fallsDone + tr.count .sclkFall = 8 * k' + t.fallsDone

theorem InSelection.refl (h : Spaced k (s.ahead cfg)) : InSelection cfg k s [] k s := ⟨h, rfl, rfl, rfl⟩

theorem InSelection.trans {tr tr' : List PinEvent} {k'' : Nat} (h : InSelection cfg k s tr k' t)
    (h' : InSelection cfg k' t tr' k'' u) : InSelection cfg k s (tr ++ tr') k'' u where
  spaced := h'.spaced
  channel := h'.channel.trans h.channel
  bits := by
    rw [← h.bits, ← h'.bits, ← List.append_assoc]
    exact congrArg (· ++ _) List.filterMap_append
  falls := by
    rw [List.count_append, ← h'.falls, ← h.falls]
    omega

/-- A step of the machine stays inside a selection when the step of the sequencer does. -/
theorem InSelection.drive {tr : List PinEvent} (h : InSelection cfg k s tr k' t) (inp : Inputs) :
    InSelection cfg k s tr k' (t.drive inp) := ⟨h.spaced, h.channel, h.bits, h.falls⟩

theorem inSelection_raise (h : Spaced k (s.ahead cfg)) (hop : currentOp s = some i) (hi : i ≠ .led) (c : FaultCode) :
    InSelection cfg k s ((stepEvents s (s.raise c)).map Prod.snd) k (s.raise c) := by
  rw [stepEvents_raise hop hi c]
  exact ⟨h, rfl, rfl, rfl⟩

theorem drop_byteBits_append (x : Byte) (l : List Bool) {n : Nat} (hn : n < 8) :
    (byteBits x ++ l).drop n = x.getLsbD (cellBit n) :: (byteBits x ++ l).drop (n + 1) := by
  have length : (byteBits x).length = 8 := by simp [byteBits]
  rw [List.drop_eq_getElem_cons (by simp; omega), List.getElem_append_left (by omega)]
  simp [byteBits, cellBit]

theorem Running.wait_in_selection {d : Delay} (hcfg : configOk cfg = true) (hs : Running cfg s)
    (hops : s.ahead cfg = .wait d :: ops) (hk : Spaced k (.wait d :: ops)) (he : exec (.wait d) s = .next t) :
    InSelection cfg k s ((stepEvents s t).map Prod.snd) k t := by
  have hop := hs.currentOp_of_ahead hops
  have idle : s.exchanging = false := exchanging_eq_false_of_owned hs.holds hop (by simp)
  obtain ⟨hsclk, hbitcnt⟩ := exec_clock_eq he (by simp)
  have idle' : t.exchanging = false := by rwa [State.exchanging, hsclk, hbitcnt]
  have bus : BusOnly s t := busOnly_of_exec hop he (.inl ⟨d, rfl⟩)
  have here : Spaced k (t.ahead cfg) ∧ bitsBeforeCsd cfg (t.ahead cfg) = bitsBeforeCsd cfg (.wait d :: ops) := by
    obtain hstay | ⟨-, hnext⟩ | ⟨⟨a, hi⟩, -⟩ := exec_ahead_cases hcfg hops he
    · rw [hstay]
      exact ⟨hk, rfl⟩
    · rw [hnext]
      exact ⟨hk, rfl⟩
    · simp at hi
  obtain ⟨spaced, same⟩ := here
  rw [bus.stepEvents_of_no_edge hsclk]
  refine ⟨spaced, exec_frame he .ch (by simp [writtenBy]), ?_, ?_⟩
  · rw [State.bitsLeft, State.bitsLeft, same, hops, bitsDriven_of_idle_bus idle, bitsDriven_of_idle_bus idle']
    rfl
  · rw [fallsDone_of_idle_bus idle, fallsDone_of_idle_bus idle']
    rfl

theorem Running.xfer_in_selection {c : Command} {discard : Bool} {w : WordSel} {b : ByteSel} (hcfg : configOk cfg = true)
    (hs : Running cfg s) (hops : s.ahead cfg = .xfer c discard w b :: ops) (hk : Spaced k (.xfer c discard w b :: ops))
    (he : exec (.xfer c discard w b) s = .next t) :
    ∃ k', InSelection cfg k s ((stepEvents s t).map Prod.snd) k' t := by
  have hop := hs.currentOp_of_ahead hops
  have bus : BusOnly s t := busOnly_of_exec hop he (.inr ⟨c, discard, w, b, rfl⟩)
  have left : s.bitsLeft cfg = (byteBits (commandByte cfg c) ++ bitsBeforeCsd cfg ops).drop s.bitsDriven := by
    rw [State.bitsLeft, hops]
    rfl
  have here : Spaced k (s.ahead cfg) := hops ▸ hk
  obtain ⟨-, after⟩ := hk
  obtain ⟨e, rfl⟩ | ⟨hc, h8, rfl⟩ | ⟨hc, h7, rfl⟩ | ⟨hc, h7, r, rfl⟩ := hs.xfer_step hop he
  · exact ⟨k, inSelection_raise here hop (by simp) e⟩
  · have driven : s.bitsDriven = s.fallsDone := by simp [State.bitsDriven, hc]
    have falls : (s.clockRise (commandByte cfg c) s.fallsDone).fallsDone = s.fallsDone := fallsDone_of_sclk rfl
    have driven' : (s.clockRise (commandByte cfg c) s.fallsDone).bitsDriven = s.fallsDone + 1 := by
      rw [State.bitsDriven, falls]
      rfl
    rw [bus.stepEvents_of_rise hc rfl]
    refine ⟨k, here, rfl, ?_, ?_⟩
    · have same : (s.clockRise (commandByte cfg c) s.fallsDone).ahead cfg = .xfer c discard w b :: ops := hops
      rw [left, driven, drop_byteBits_append _ _ h8, State.bitsLeft, driven', same]
      rfl
    · rw [falls]
      rfl
  · have exchange := s.exchanging_clockFall h7
    have falls : s.clockFall.fallsDone = s.bitcnt + 1 := by simp [State.fallsDone, exchange]
    have driven : s.clockFall.bitsDriven = s.bitsDriven := by
      rw [State.bitsDriven, State.bitsDriven, falls, fallsDone_of_sclk hc, hc]
      rfl
    rw [bus.stepEvents_of_fall hc rfl]
    refine ⟨k, here, rfl, ?_, ?_⟩
    · rw [State.bitsLeft, driven]
      rfl
    · rw [falls, fallsDone_of_sclk hc]
      rfl
  · obtain ⟨low, count⟩ := completeXfer_clock s discard w b r
    have idle : (s.completeXfer discard w b r).exchanging = false := by
      rw [State.exchanging, low, count, h7]
      rfl
    have next : (s.completeXfer discard w b r).ahead cfg = ops :=
      ahead_of_movesOn hcfg (completeXfer_movesOn s discard w b r) hops
    have driven : s.bitsDriven = 8 := by rw [State.bitsDriven, fallsDone_of_sclk hc, hc, h7]; rfl
    rw [bus.stepEvents_of_fall hc low]
    refine ⟨k + 1, next ▸ after, exec_frame he .ch (by cases discard <;> cases w <;> simp [writtenBy]), ?_, ?_⟩
    · rw [left, driven, State.bitsLeft, next, bitsDriven_of_idle_bus idle]
      exact (List.drop_left' (by simp [byteBits])).symm
    · rw [fallsDone_of_idle_bus idle, fallsDone_of_sclk hc, h7]
      simp
      omega

/-- A step inside a selection stays there, or is the deselection. -/
theorem Running.step_in_selection (hcfg : configOk cfg = true) (hs : Running cfg s) (hk : Spaced k (s.ahead cfg))
    (h : sequencerStep s = .next t) :
    (∃ k', InSelection cfg k s ((stepEvents s t).map Prod.snd) k' t)
      ∨ stepEvents s t = [(stepFloor s t, .csOff s.channel)] := by
  cases hops : s.ahead cfg with
  | nil => simp [hops, Spaced] at hk
  | cons i ops =>
    have hop := hs.currentOp_of_ahead hops
    have faulted (hi : i ≠ .led) (c : FaultCode) : ∃ k', InSelection cfg k s ((stepEvents s (s.raise c)).map Prod.snd) k' (s.raise c) :=
      ⟨k, inSelection_raise hk hop hi c⟩
    rw [hops] at hk
    cases i with
    | csd =>
      obtain ⟨c, rfl⟩ | ⟨rfl, hevents⟩ := csd_step hop h
      · exact .inl (faulted (by simp) c)
      · exact .inr hevents
    | wait d =>
      obtain ⟨c, rfl⟩ | he := sequencerStep_of_currentOp hop h
      · exact .inl (faulted (by simp) c)
      · exact .inl ⟨k, hs.wait_in_selection hcfg hops hk he⟩
    | xfer c discard w b =>
      obtain ⟨c, rfl⟩ | he := sequencerStep_of_currentOp hop h
      · exact .inl (faulted (by simp) c)
      · exact .inl (hs.xfer_in_selection hcfg hops hk he)
    | _ => exact hk.elim

/-- A run without the deselection of the current channel stays inside the selection. -/
theorem Running.run_in_selection (hcfg : configOk cfg = true) (done : List Inputs) :
    ∀ (s : State) (k : Nat), Running cfg s → Spaced k (s.ahead cfg) → runWith done s = .next t →
      .csOff s.channel ∉ pinTrace done s → ∃ k', InSelection cfg k s (pinTrace done s) k' t := by
  induction done with
  | nil =>
    intro s k _ hk h _
    cases h
    exact ⟨k, InSelection.refl hk⟩
  | cons inp rest ih =>
    intro s k hs hk h hoff
    obtain ⟨u, hu, hrest⟩ := runWith_cons_cases h
    rw [pinTrace_cons hu] at hoff ⊢
    obtain ⟨hfirst, hlater⟩ := not_or.1 (mt List.mem_append.2 hoff)
    obtain ⟨k1, stays⟩ | hevents := hs.step_in_selection hcfg hk hu
    · have stays := stays.drive inp
      have channel : (u.drive inp).channel = s.channel := congrArg BitVec.toNat stays.channel
      obtain ⟨k', later⟩ := ih _ k1 (hs.next hu inp) stays.spaced hrest (channel ▸ hlater)
      exact ⟨k', stays.trans later⟩
    · simp [hevents] at hfirst

/-! ### A run between two selections -/

/-- A step of a run with no XFER before the next CSA leads to no XFER, unless it selects. -/
theorem Running.step_before_select (hcfg : configOk cfg = true) (hs : Running cfg s) (hfirst : SelectsFirst (s.ahead cfg))
    (h : sequencerStep s = .next t) : SelectsFirst (t.ahead cfg) ∨ ∃ x ∈ stepEvents s t, IsSelect x.2 := by
  obtain ⟨c, -, rfl⟩ | ⟨i, hi, he⟩ := sequencerStep_cases h
  · exact .inl hfirst
  · obtain ⟨-, -, hop⟩ := (fetch_run_iff i).1 hi
    obtain ⟨ops, hops⟩ := hs.exists_ahead_eq_cons hop
    obtain hstay | ⟨-, hnext⟩ | ⟨-, hjump⟩ := exec_ahead_cases hcfg hops he
    · exact .inl (by rwa [hstay, ← hops])
    · by_cases hcsa : i = .csa
      · subst hcsa
        obtain ⟨c, rfl⟩ | ⟨-, hevents⟩ := hs.csa_step hop h
        · exact .inl hfirst
        · exact .inr ⟨_, hevents ▸ List.mem_singleton_self _, s.channel, rfl⟩
      · rw [hnext]
        exact .inl ((hops ▸ hfirst).tail hcsa)
    · obtain hjump | hjump := hjump <;> rw [hjump]
      · exact .inl (selectsFirst_body cfg 1 (by decide))
      · exact .inl (selectsFirst_body cfg 2 (by decide))

theorem Running.run_before_select (hcfg : configOk cfg = true) (done : List Inputs) :
    ∀ (s : State) (now : ℚ), Running cfg s → SelectsFirst (s.ahead cfg) → runWith done s = .next t →
      (∀ x ∈ timedTrace now done s, ¬ IsSelect x.2) → SelectsFirst (t.ahead cfg) := by
  induction done with
  | nil =>
    intro s now _ hfirst h _
    cases h
    exact hfirst
  | cons inp rest ih =>
    intro s now hs hfirst h hnone
    obtain ⟨u, hu, hrest⟩ := runWith_cons_cases h
    rw [timedTrace_cons _ _ _ hu] at hnone
    obtain hfirst | ⟨x, hx, hselect⟩ := hs.step_before_select hcfg hfirst hu
    · exact ih _ _ (hs.next hu inp) hfirst hrest fun x hx => hnone x (List.mem_append_right _ hx)
    · exact absurd hselect (hnone (now + x.1, x.2) (List.mem_append_left _ (List.mem_map.2 ⟨x, hx, rfl⟩)))

/-- With no XFER before the next CSA, no clock edge comes before the next select. -/
theorem Running.select_before_edge (hcfg : configOk cfg = true) (hs : Running cfg s) (hfirst : SelectsFirst (s.ahead cfg))
    {now : ℚ} {inputs : List Inputs} {mid after : List (ℚ × PinEvent)} {x : ℚ × PinEvent}
    (htrace : timedTrace now inputs s = mid ++ x :: after) (hx : IsEdge x.2) : ∃ y ∈ mid, IsSelect y.2 := by
  by_contra hnone
  obtain ⟨done, u, t, inp, rest, hemit⟩ := exists_emittedAfter _ _ _ _ htrace
  have first := hs.run_before_select hcfg done s now hfirst hemit.reach fun y hy hselect =>
    hnone ⟨y, hemit.subset_before hy, hselect⟩
  obtain ⟨y, hy, heq⟩ := hemit.exists_mem
  obtain ⟨c, discard, w, k, hop, -⟩ := currentOp_of_edge hemit.step hy (heq ▸ hx)
  obtain ⟨ops, hops⟩ := (hs.run hemit.reach).exists_ahead_eq_cons hop
  rw [hops] at first
  exact first

end Sys2Proof.Machine
end

section
/-!
SUPPORT. The selections of a run from power-up: how many came before one tells whether it is of the zero-set preamble (R693), and the
events that bound a selection split the run as they split its trace.
-/

namespace Sys2Proof.Machine

open Sys2Proof

variable {cfg : Config} {s t u v : State} {ops : List Instr} {op : Instr}

/-! ### How far the zero-set preamble has come (R693) -/

/-- The events that CSA (CSD) makes. -/
def madeBy : Instr → PinEvent → Bool
  | .csa, .csOn _ => true
  | .csd, .csOff _ => true
  | _, _ => false

/-- After `n` selects (deselects) the CSAs (CSDs) ahead are the rest of the preamble's and the body's; after the first cycle's, at most
the body's. -/
def Progress (cfg : Config) (op : Instr) (n : Nat) (s : State) : Prop :=
  n + (s.ahead cfg).count op = cfg.zeroSetChannels.length + 1
    ∨ (cfg.zeroSetChannels.length + 1 ≤ n ∧ (s.ahead cfg).count op ≤ 1)

theorem progress_poweredUp (inp : Inputs) (hop : op = .csa ∨ op = .csd) : Progress cfg op 0 (poweredUp cfg inp) := by
  obtain ⟨csa, csd⟩ := count_romOps cfg
  have start : (poweredUp cfg inp).ahead cfg = romOps cfg := rfl
  obtain rfl | rfl := hop
  · exact .inl (by rw [start, csa, Nat.zero_add])
  · exact .inl (by rw [start, csd, Nat.zero_add])

/-- The events of a step made by a micro-op that is not the one at `upc`. -/
theorem countP_madeBy_of_other (hop : op = .csa ∨ op = .csd) (h : sequencerStep s = .next t) (hother : currentOp s ≠ some op) :
    ((stepEvents s t).map Prod.snd).countP (madeBy op) = 0 := by
  rw [List.countP_eq_zero]
  intro e he hmade
  obtain ⟨x, hx, rfl⟩ := List.mem_map.1 he
  cases hx2 : x.2 with
  | csOn n =>
    obtain ⟨hcsa, -⟩ := currentOp_of_csOn h hx hx2
    obtain rfl | rfl := hop
    · exact hother hcsa
    · simp [madeBy, hx2] at hmade
  | csOff n =>
    obtain ⟨hcsd, -⟩ := currentOp_of_csOff h hx hx2
    obtain rfl | rfl := hop
    · simp [madeBy, hx2] at hmade
    · exact hother hcsd
  | _ => obtain rfl | rfl := hop <;> simp [madeBy, hx2] at hmade

/-- CSA (CSD) faults, or moves on with the one event it makes. -/
theorem Running.select_step (hs : Running cfg s) (hop : op = .csa ∨ op = .csd) (hcur : currentOp s = some op)
    (h : sequencerStep s = .next t) :
    (∃ c, t = s.raise c) ∨ (MovesOn s t ∧ ((stepEvents s t).map Prod.snd).countP (madeBy op) = 1) := by
  obtain rfl | rfl := hop
  · obtain hraise | ⟨rfl, hevents⟩ := hs.csa_step hcur h
    · exact .inl hraise
    · exact .inr ⟨⟨rfl, rfl⟩, by rw [hevents]; rfl⟩
  · obtain hraise | ⟨rfl, hevents⟩ := csd_step hcur h
    · exact .inl hraise
    · exact .inr ⟨⟨rfl, rfl⟩, by rw [hevents]; rfl⟩

theorem Running.progress_step {n : Nat} (hcfg : configOk cfg = true) (hs : Running cfg s) (hop : op = .csa ∨ op = .csd)
    (hn : Progress cfg op n s) (h : sequencerStep s = .next t) :
    Progress cfg op (n + ((stepEvents s t).map Prod.snd).countP (madeBy op)) t := by
  by_cases hcur : currentOp s = some op
  · obtain ⟨ops, hops⟩ := hs.exists_ahead_eq_cons hcur
    obtain ⟨c, rfl⟩ | ⟨hmoves, hcount⟩ := hs.select_step hop hcur h
    · rw [stepEvents_raise hcur (by obtain rfl | rfl := hop <;> simp) c]
      exact hn
    · rw [hcount, Progress, ahead_of_movesOn hcfg hmoves hops]
      rw [Progress, hops, List.count_cons_self] at hn
      omega
  · rw [countP_madeBy_of_other hop h hcur]
    obtain ⟨c, -, rfl⟩ | ⟨i, hi, he⟩ := sequencerStep_cases h
    · exact hn
    · obtain ⟨-, -, hcur'⟩ := (fetch_run_iff i).1 hi
      obtain ⟨ops, hops⟩ := hs.exists_ahead_eq_cons hcur'
      have hne : i ≠ op := fun heq => hcur (heq ▸ hcur')
      rw [Progress, hops, List.count_cons_of_ne hne] at hn
      obtain hstay | ⟨-, hnext⟩ | ⟨⟨a, hjump⟩, htarget⟩ := exec_ahead_cases hcfg hops he
      · rwa [Progress, hstay, List.count_cons_of_ne hne]
      · rwa [Progress, hnext]
      · have none_ahead : ops.count op = 0 := by
          have ahead := hasAhead_of_ahead hops
          obtain ⟨csa, csd⟩ : ops.count .csa = 0 ∧ ops.count .csd = 0 := by obtain rfl | rfl := hjump <;> exact ahead
          obtain rfl | rfl := hop
          · exact csa
          · exact csd
        have one_ahead : (t.ahead cfg).count op = 1 := by
          obtain ⟨csa, csd⟩ := count_body cfg 1 (by decide)
          obtain ⟨csa', csd'⟩ := count_body cfg 2 (by decide)
          obtain rfl | rfl := hop <;> obtain htarget | htarget := htarget <;> rw [htarget] <;> assumption
        rw [Progress, one_ahead]
        omega

theorem Running.progress_run (hcfg : configOk cfg = true) (hop : op = .csa ∨ op = .csd) (done : List Inputs) :
    ∀ (s : State) (n : Nat), Running cfg s → Progress cfg op n s → runWith done s = .next t →
      Progress cfg op (n + (pinTrace done s).countP (madeBy op)) t := by
  induction done with
  | nil =>
    intro s n _ hn h
    cases h
    exact hn
  | cons inp rest ih =>
    intro s n hs hn h
    obtain ⟨u, hu, hrest⟩ := runWith_cons_cases h
    rw [pinTrace_cons hu, List.countP_append, ← Nat.add_assoc]
    exact ih _ _ (hs.next hu inp) (hs.progress_step hcfg hop hn hu) hrest

/-- A CSA (CSD) that a run from power-up comes to is one of the preamble exactly when fewer selects (deselects) came before it than
there are channels to zero-set. -/
theorem count_ahead_pos_iff (hcfg : configOk cfg = true) (hop : op = .csa ∨ op = .csd) (inp : Inputs) (done : List Inputs)
    (h : runWith done (poweredUp cfg inp) = .next s) (hops : s.ahead cfg = op :: ops) :
    0 < ops.count op ↔ (pinTrace done (poweredUp cfg inp)).countP (madeBy op) < cfg.zeroSetChannels.length := by
  have progress := Running.progress_run hcfg hop done _ 0 (running_poweredUp cfg inp) (progress_poweredUp inp hop) h
  rw [Progress, hops, List.count_cons_self, Nat.zero_add] at progress
  omega

/-! ### The events that bound a selection -/

/-- The run `done` from `s` comes in `u` to a CSA (CSD), whose step selects (deselects) channel `n` and leads to `v`. -/
structure SelectStep (b : Bool) (n : Nat) (done : List Inputs) (s u v : State) : Prop where
  reach : runWith done s = .next u
  op : currentOp u = some (if b then .csa else .csd)
  channel : u.channel = n
  step : sequencerStep u = .next (u.putCs n b).advance
  after : ∃ inp, v = (u.putCs n b).advance.drive inp

section

variable {now t0 : ℚ} {inputs done : List Inputs} {inp : Inputs} {before after : List (ℚ × PinEvent)} {n : Nat} {b : Bool}

theorem SelectStep.running (h : SelectStep b n done s u v) (hs : Running cfg s) : Running cfg v := by
  obtain ⟨inp, rfl⟩ := h.after
  exact (hs.run h.reach).next h.step inp

theorem SelectStep.exists_ahead (h : SelectStep b n done s u v) (hcfg : configOk cfg = true) (hs : Running cfg s) :
    ∃ ops, u.ahead cfg = (if b then .csa else .csd) :: ops ∧ v.ahead cfg = ops := by
  obtain ⟨ops, hops⟩ := (hs.run h.reach).exists_ahead_eq_cons h.op
  obtain ⟨inp, rfl⟩ := h.after
  exact ⟨ops, hops, ahead_of_movesOn hcfg ⟨rfl, rfl⟩ hops⟩

/-- A selection begins and ends with no hold under way. -/
theorem SelectStep.at_rest (h : SelectStep b n done s u v) (hs : Running cfg s) : v.exchanging = false ∧ v.timer = 0 := by
  have holds := (hs.run h.reach).holds
  have hop := h.op
  obtain ⟨inp, rfl⟩ := h.after
  exact ⟨exchanging_eq_false_of_owned (s := u) holds hop (by cases b <;> simp),
    timer_eq_zero_of_owned (s := u) holds hop (by cases b <;> simp)⟩

/-- The event of a select or deselect splits the run as it splits the trace. -/
theorem Running.exists_selectStep (hs : Running cfg s)
    (htrace : timedTrace now inputs s = before ++ (t0, selectEvent n b) :: after) :
    ∃ done u v rest, SelectStep b n done s u v ∧ before = timedTrace now done s ∧ after = timedTrace t0 rest v := by
  obtain ⟨done, u, t, inp, rest, hemit⟩ := exists_emittedAfter _ _ _ _ htrace
  obtain ⟨y, hy, hevent⟩ := hemit.exists_mem
  have made : currentOp u = some (if b then .csa else .csd) ∧ t = (u.putCs u.channel b).advance
      ∧ stepEvents u t = [(stepFloor u t, selectEvent u.channel b)] := by
    have faultless {i : Instr} (hop : currentOp u = some i) (hi : i ≠ .led) : ¬ ∃ c, t = u.raise c := by
      rintro ⟨c, rfl⟩
      rw [stepEvents_raise hop hi] at hy
      cases hy
    cases b with
    | true =>
      obtain ⟨hop, ht⟩ := currentOp_of_csOn hemit.step hy hevent
      obtain hraise | ⟨-, hevents⟩ := (hs.run hemit.reach).csa_step hop hemit.step
      · exact absurd hraise (faultless hop (by simp))
      · exact ⟨hop, ht, hevents⟩
    | false =>
      obtain ⟨hop, ht⟩ := currentOp_of_csOff hemit.step hy hevent
      obtain hraise | ⟨-, hevents⟩ := csd_step hop hemit.step
      · exact absurd hraise (faultless hop (by simp))
      · exact ⟨hop, ht, hevents⟩
  obtain ⟨hop, rfl, hevents⟩ := made
  obtain ⟨heq, hbefore, hafter⟩ := hemit.of_singleton hevents
  obtain rfl : n = u.channel := by cases b <;> simpa [selectEvent] using heq
  exact ⟨done, u, _, rest, ⟨hemit.reach, hop, rfl, hemit.step, inp, rfl⟩, hbefore, hafter⟩

theorem countSelections_eq_countP (tr : List PinEvent) : countSelections tr = tr.countP (madeBy .csa) := by
  rw [countSelections, List.countP_eq_length_filter]
  congr 2
  funext e
  cases e <;> rfl

/-- A run of the built ROM right after it has selected channel `n`, of a zero-set or of a reading. -/
structure SelectionBegun (cfg : Config) (n : Nat) (zeroSet : Bool) (v : State) : Prop extends Running cfg v where
  channel : v.channel = n
  spaced : Spaced 0 (v.ahead cfg)
  falls : v.fallsDone = 0
  bits : v.bitsLeft cfg = (selectionBytes cfg zeroSet).flatMap byteBits

/-- After a select a selection has begun, a zero-set's where fewer selects came before it than there are channels to zero-set. -/
theorem exists_selectionBegun (hcfg : configOk cfg = true)
    (htrace : timedTrace now inputs (poweredUp cfg inp) = before ++ (t0, .csOn n) :: after) :
    ∃ v rest, SelectionBegun cfg n (countSelections (before.map Prod.snd) < cfg.zeroSetChannels.length) v
      ∧ after = timedTrace t0 rest v := by
  have start := running_poweredUp cfg inp
  obtain ⟨done, u, v, rest, hselect, rfl, hafter⟩ := start.exists_selectStep (b := true) htrace
  obtain ⟨ops, hops, next⟩ := hselect.exists_ahead hcfg start
  obtain ⟨idle, -⟩ := hselect.at_rest start
  obtain ⟨spaced, bits⟩ := hasAhead_of_ahead hops
  have channel : v.channel = n := by
    obtain ⟨inp', rfl⟩ := hselect.after
    exact hselect.channel
  have preamble := count_ahead_pos_iff hcfg (.inl rfl) inp done hselect.reach hops
  refine ⟨v, rest, ⟨hselect.running start, channel, next ▸ spaced, fallsDone_of_idle_bus idle, ?_⟩, hafter⟩
  rw [State.bitsLeft, next, bitsDriven_of_idle_bus idle, List.drop_zero, bits, map_snd_timedTrace, countSelections_eq_countP]
  simp only [preamble]

end

end Sys2Proof.Machine
end

section
/-!
SUPPORT. What the transactions of the frame reader promise (R471 to R475, R822): the bits of a selection, the gap after each of its
bytes, and the WAITs after a deselect of the zero-set preamble.
-/

namespace Sys2Proof.Machine

open Sys2Proof

variable {cfg : Config} {i : Instr} {s t : State} {ops : List Instr} {k n : Nat} {now t0 : ℚ} {inputs : List Inputs} {inp : Inputs}
  {before after : List (ℚ × PinEvent)}

/-! ### The bits of a selection (R471 to R473, R475) -/

/-- The bits driven from its select to its deselect are those of the selection's commands. -/
theorem SelectionBegun.drivenBits_eq {zeroSet : Bool} (hcfg : configOk cfg = true) (hs : SelectionBegun cfg n zeroSet s)
    {body : List (ℚ × PinEvent)} (htrace : timedTrace now inputs s = body ++ (t0, .csOff n) :: after)
    (hoff : .csOff n ∉ body.map Prod.snd) :
    drivenBits (body.map Prod.snd) = (selectionBytes cfg zeroSet).flatMap byteBits := by
  obtain ⟨done, u, v, rest, hdeselect, rfl, -⟩ := hs.toRunning.exists_selectStep (b := false) htrace
  rw [map_snd_timedTrace] at hoff ⊢
  obtain ⟨k, stays⟩ := hs.toRunning.run_in_selection hcfg done s 0 hs.spaced hdeselect.reach (hs.channel ▸ hoff)
  obtain ⟨ops, hops, -⟩ := hdeselect.exists_ahead hcfg hs.toRunning
  have none_left : u.bitsLeft cfg = [] := by
    rw [State.bitsLeft, hops]
    exact List.drop_nil
  rw [← hs.bits, ← stays.bits, none_left, List.append_nil]

/-! ### The gap between two bytes (R822) -/

/-- An edge without a select before it comes before the deselect. -/
theorem Running.csOff_not_mem_before_edge (hcfg : configOk cfg = true) (hs : Running cfg s) {x : ℚ × PinEvent}
    (htrace : timedTrace now inputs s = before ++ x :: after) (hx : IsEdge x.2) (hnone : ∀ y ∈ before, ¬ IsSelect y.2) :
    .csOff n ∉ before.map Prod.snd := by
  intro hoff
  obtain ⟨⟨t1, e⟩, hy, rfl⟩ := List.mem_map.1 hoff
  obtain ⟨before, mid, rfl⟩ := List.append_of_mem hy
  obtain ⟨done, u, v, rest, hdeselect, -, hafter⟩ := hs.exists_selectStep (b := false) (n := n) (t0 := t1) (now := now)
    (inputs := inputs) (before := before) (after := mid ++ x :: after) (htrace.trans (by simp [selectEvent]))
  obtain ⟨ops, hops, next⟩ := hdeselect.exists_ahead hcfg hs
  obtain ⟨first, -⟩ := hasAhead_of_ahead hops
  obtain ⟨y, hy, hselect⟩ := (hdeselect.running hs).select_before_edge hcfg (next ▸ first) hafter.symm hx
  exact hnone y (by simp [hy]) hselect

/-- A falling edge is made by an XFER. -/
theorem exec_xfer_of_fall (h : sequencerStep s = .next t) {x : ℚ × PinEvent} (hx : x ∈ stepEvents s t) (he : x.2 = .sclkFall) :
    s.sclk = true ∧ t.sclk = false
      ∧ ∃ c discard w b, currentOp s = some (.xfer c discard w b) ∧ exec (.xfer c discard w b) s = .next t := by
  have change := reportsChange_of_mem_stepEvents hx
  rw [he] at change
  obtain ⟨high, low⟩ := change
  exact ⟨high, low, currentOp_of_edge h hx (.inr he)⟩

/-- The step of a falling edge has that one event. -/
theorem stepEvents_of_fall (h : sequencerStep s = .next t) {x : ℚ × PinEvent} (hx : x ∈ stepEvents s t) (he : x.2 = .sclkFall) :
    stepEvents s t = [(stepFloor s t, .sclkFall)] := by
  obtain ⟨high, low, c, discard, w, b, hop, hexec⟩ := exec_xfer_of_fall h hx he
  have bus : BusOnly s t := busOnly_of_exec hop hexec (.inr ⟨c, discard, w, b, rfl⟩)
  rw [bus.stepEvents_of_fall high low, stepFloor_of_edge (by simp [high, low])]

/-- After the last falling edge of a byte the run is at the gap that the ROM puts there. -/
theorem Running.gap_after_last_fall (hcfg : configOk cfg = true) (hs : Running cfg s) (hk : Spaced k (s.ahead cfg))
    (h : sequencerStep s = .next t) {x : ℚ × PinEvent} (hx : x ∈ stepEvents s t) (he : x.2 = .sclkFall) (h7 : s.bitcnt = 7) :
    GapAfter (k + 1) (t.ahead cfg) ∧ t.timer = 0 := by
  obtain ⟨high, low, c, discard, w, b, hop, hexec⟩ := exec_xfer_of_fall h hx he
  obtain ⟨ops, hops⟩ := hs.exists_ahead_eq_cons hop
  have idle : s.timer = 0 := timer_eq_zero_of_owned hs.holds hop (by simp)
  refine ⟨?_, (exec_timer_eq hexec (by simp)).trans idle⟩
  rw [hops] at hk
  obtain ⟨gap, -⟩ := hk
  obtain ⟨e, rfl⟩ | ⟨hlow, -⟩ | ⟨-, hlt, -⟩ | ⟨-, -, r, rfl⟩ := hs.xfer_step hop hexec
  · exact absurd (high.symm.trans low) (by simp)
  · exact absurd (high.symm.trans hlow) (by simp)
  · omega
  · rwa [ahead_of_movesOn hcfg (completeXfer_movesOn s discard w b r) hops]

/-- R822: from the last falling edge of a byte to the next rising edge of the selection. -/
theorem Running.gap_le (h : Timed cfg) (hs : Running cfg s) (hgap : GapAfter k (s.ahead cfg)) (htimer : s.timer = 0)
    {mid : List (ℚ × PinEvent)} {t1 t2 : ℚ} (htrace : timedTrace t1 inputs s = mid ++ (t2, .sclkRise) :: after)
    (hnone : ∀ y ∈ mid, ¬ IsSelect y.2) : (if k = 2 then cfg.tTurn else cfg.tSettle) ≤ t2 - t1 := by
  obtain first | ⟨ops, hops⟩ := hgap
  · obtain ⟨y, hy, hselect⟩ := hs.select_before_edge h.ok first htrace (.inl rfl)
    exact absurd hselect (hnone y hy)
  · have countdown : Countdown (OnRom cfg) State.heldFor (· = .sclkRise) := countdown_heldFor h fun s t ht x hx he => by
      obtain ⟨c, discard, w, k, hop, -⟩ := currentOp_of_edge ht hx (.inl he)
      exact ⟨_, hop, by simp⟩
    have bound := countdown.le_stamp inputs s t1 hs.toOnRom (t2, .sclkRise) (by simp [htrace]) rfl
    rw [heldFor_of_wait (hs.currentOp_of_ahead hops), waitLeft_of_timer_zero _ htimer, hs.cfg_eq] at bound
    have delay : delayTime cfg (if k = 2 then .turn else .settle) = if k = 2 then cfg.tTurn else cfg.tSettle := by
      split <;> rfl
    rw [delay] at bound
    simp only at bound
    linarith

/-- R822: the gap after the last falling edge of a byte, counted from the start of its selection. -/
theorem SelectionBegun.interByte_gap {zeroSet : Bool} (h : Timed cfg) (hs : SelectionBegun cfg n zeroSet s)
    {first mid : List (ℚ × PinEvent)} {t1 t2 : ℚ}
    (htrace : timedTrace now inputs s = first ++ (t1, .sclkFall) :: (mid ++ (t2, .sclkRise) :: after))
    (hnone : ∀ y ∈ first ++ mid, ¬ IsSelect y.2) (hlast : (countEvents .sclkFall first + 1) % 8 = 0) :
    (if countEvents .sclkFall first + 1 = 16 then cfg.tTurn else cfg.tSettle) ≤ t2 - t1 := by
  have hoff : .csOff s.channel ∉ first.map Prod.snd :=
    hs.toRunning.csOff_not_mem_before_edge h.ok htrace (.inr rfl) fun y hy => hnone y (List.mem_append_left _ hy)
  obtain ⟨done, u, t, inp, rest, hemit⟩ := exists_emittedAfter _ _ _ _ htrace
  obtain ⟨y, hy, hevent⟩ := hemit.exists_mem
  have hu := hs.toRunning.run hemit.reach
  obtain ⟨hclock, -⟩ := exec_xfer_of_fall hemit.step hy hevent
  obtain ⟨-, rfl, hafter⟩ := hemit.of_singleton (stepEvents_of_fall hemit.step hy hevent)
  rw [map_snd_timedTrace] at hoff
  obtain ⟨k, stays⟩ := hs.toRunning.run_in_selection h.ok done s 0 hs.spaced hemit.reach hoff
  have falls := stays.falls
  have lt8 := bitcnt_lt_of_exchanging hu.holds (u.exchanging_of_sclk hclock)
  rw [hs.falls, fallsDone_of_sclk hclock] at falls
  rw [countEvents_eq_count, map_snd_timedTrace] at hlast ⊢
  obtain ⟨gap, timer⟩ := hu.gap_after_last_fall h.ok stays.spaced hemit.step hy hevent (by omega)
  have second : (pinTrace done s).count .sclkFall + 1 = 16 ↔ k + 1 = 2 := by omega
  simp only [second]
  exact (hu.next hemit.step inp).gap_le (s := t.drive inp) h gap timer hafter.symm
    fun y hy => hnone y (List.mem_append_right _ hy)

/-! ### The WAITs after a deselect of the preamble (R475, R693) -/

/-- How long the WAITs that come first take at least. -/
def firstWaits (cfg : Config) : List Instr → ℚ
  | .wait d :: ops => delayTime cfg d + firstWaits cfg ops
  | _ => 0

/-- The least time until a micro-op other than WAIT is performed, when several WAITs come before it. -/
def State.waitsLeft (cfg : Config) (s : State) : ℚ :=
  match s.ahead cfg with
  | .wait d :: ops => s.waitLeft d + firstWaits cfg ops
  | _ => 0

theorem waitsLeft_of_wait {d : Delay} (h : s.ahead cfg = .wait d :: ops) :
    s.waitsLeft cfg = s.waitLeft d + firstWaits cfg ops := by
  rw [State.waitsLeft, h]

theorem waitsLeft_of_not_wait (h : s.ahead cfg = i :: ops) (hi : ∀ d, i ≠ .wait d) : s.waitsLeft cfg = 0 := by
  rw [State.waitsLeft, h]
  split
  · rename_i d ops' heq
    cases heq
    exact absurd rfl (hi d)
  · rfl

theorem waitsLeft_of_timer_zero (hcfg : s.cfg = cfg) (h : s.timer = 0) : s.waitsLeft cfg = firstWaits cfg (s.ahead cfg) := by
  unfold State.waitsLeft
  cases s.ahead cfg with
  | nil => rfl
  | cons i ops => cases i <;> simp [firstWaits, waitLeft_of_timer_zero _ h, hcfg]

theorem Timed.firstWaits_nonneg (h : Timed cfg) : ∀ ops, 0 ≤ firstWaits cfg ops
  | [] => le_rfl
  | i :: ops => by
    cases i with
    | wait d => exact add_nonneg (h.delay_nonneg d) (h.firstWaits_nonneg ops)
    | _ => exact le_rfl

theorem Timed.waitsLeft_nonneg (h : Timed cfg) (hcfg : s.cfg = cfg) : 0 ≤ s.waitsLeft cfg := by
  unfold State.waitsLeft
  split
  · exact add_nonneg (Timed.waitLeft_nonneg (hcfg ▸ h) _) (h.firstWaits_nonneg _)
  · exact le_rfl

/-- A step of a WAIT takes no more from the time left than it lasts. -/
theorem exec_wait_waitsLeft {d : Delay} (h : Timed cfg) (hcfg : s.cfg = cfg) (hops : s.ahead cfg = .wait d :: ops)
    (he : exec (.wait d) s = .next t) : s.waitsLeft cfg ≤ stepFloor s t + t.waitsLeft cfg := by
  have timed : Timed s.cfg := hcfg ▸ h
  rw [waitsLeft_of_wait hops]
  by_cases hleft : s.ticksAfterStep d = 0
  · obtain rfl : (s.putTimer 0).advance = t := Host.Outcome.next.inj ((exec_wait_of_no_ticks_left hleft).symm.trans he)
    have time := waitLeft_le_stepFloor_add (t := (s.putTimer 0).advance) timed rfl hleft.symm
    have next : (s.putTimer 0).advance.ahead cfg = ops := ahead_of_movesOn h.ok ⟨rfl, rfl⟩ hops
    have rest : (s.putTimer 0).advance.waitsLeft cfg = firstWaits cfg ops := by
      rw [waitsLeft_of_timer_zero (s := (s.putTimer 0).advance) hcfg rfl, next]
    rw [hleft, Nat.cast_zero, zero_mul, add_zero] at time
    rw [rest]
    linarith
  · obtain rfl : s.putTimer (s.ticksAfterStep d) = t :=
      Host.Outcome.next.inj ((exec_wait_of_ticks_left hleft).symm.trans he)
    have time := waitLeft_le_stepFloor_add (t := s.putTimer (s.ticksAfterStep d)) timed rfl rfl
    have rest : (s.putTimer (s.ticksAfterStep d)).waitsLeft cfg
        = s.ticksAfterStep d * tickTime s.cfg + firstWaits cfg ops := by
      rw [waitsLeft_of_wait (s := s.putTimer (s.ticksAfterStep d)) hops,
        waitLeft_of_timer_ne_zero (s := s.putTimer (s.ticksAfterStep d)) d hleft]
      rfl
    rw [rest]
    linarith

/-- An event that only a micro-op other than WAIT makes is at least `waitsLeft` away. -/
theorem countdown_waitsLeft (h : Timed cfg) {second : PinEvent → Prop}
    (made : ∀ s t, sequencerStep s = .next t → ∀ x ∈ stepEvents s t, second x.2 →
      ∃ i, currentOp s = some i ∧ ∀ d, i ≠ .wait d) : Countdown (OnRom cfg) (State.waitsLeft cfg) second where
  keeps := fun s t inp hs ht => sequencerStep_keeps_onRom hs ht inp
  lasts := fun s t hs => (hs.timed h).stepFloor_nonneg t
  step := by
    intro s t inp hs ht
    change s.waitsLeft cfg ≤ stepFloor s t + t.waitsLeft cfg
    have floor := (hs.timed h).stepFloor_nonneg t
    obtain ⟨c, -, rfl⟩ | ⟨i, hi, he⟩ := sequencerStep_cases ht
    · exact le_add_of_nonneg_left floor
    · obtain ⟨-, -, hop⟩ := (fetch_run_iff i).1 hi
      obtain ⟨ops, hops⟩ := hs.exists_ahead_eq_cons hop
      by_cases hw : ∃ d, i = .wait d
      · obtain ⟨d, rfl⟩ := hw
        exact exec_wait_waitsLeft h hs.cfg_eq hops he
      · rw [waitsLeft_of_not_wait hops (not_exists.1 hw)]
        exact add_nonneg floor (h.waitsLeft_nonneg ((sequencerStep_cfg_eq ht).trans hs.cfg_eq))
  emits := by
    intro s t hs ht x hx hsecond
    obtain ⟨i, hop, hi⟩ := made s t ht x hx hsecond
    obtain ⟨ops, hops⟩ := hs.exists_ahead_eq_cons hop
    rw [waitsLeft_of_not_wait hops hi]
    exact stamp_nonneg_of_mem_stepEvents hx ((hs.timed h).stepFloor_nonneg t)

/-- R693: the WAITs after a deselect that is one of the preamble's. -/
theorem zeroSet_commit_le (h : Timed cfg) {mid : List (ℚ × PinEvent)} {t1 t2 : ℚ} {j : Nat}
    (htrace : timedTrace now inputs (poweredUp cfg inp) = before ++ (t1, .csOff n) :: (mid ++ (t2, .csOn j) :: after))
    (hcount : (before.map Prod.snd).countP (madeBy .csd) < cfg.zeroSetChannels.length) : cfg.tCsIdle + cfg.tZero ≤ t2 - t1 := by
  have start := running_poweredUp cfg inp
  obtain ⟨done, u, v, rest, hdeselect, rfl, hafter⟩ := start.exists_selectStep (b := false) htrace
  obtain ⟨ops, hops, next⟩ := hdeselect.exists_ahead h.ok start
  obtain ⟨-, timer⟩ := hdeselect.at_rest start
  have hv := hdeselect.running start
  rw [map_snd_timedTrace] at hcount
  obtain ⟨-, waits⟩ := hasAhead_of_ahead hops
  obtain ⟨ops, rfl⟩ := waits ((count_ahead_pos_iff h.ok (.inr rfl) inp done hdeselect.reach hops).2 hcount)
  have countdown : Countdown (OnRom cfg) (State.waitsLeft cfg) IsSelect := countdown_waitsLeft h fun s t ht x hx ⟨n, he⟩ => by
    obtain ⟨hop, -⟩ := currentOp_of_csOn ht hx he
    exact ⟨_, hop, by simp⟩
  have bound := countdown.le_stamp rest v t1 hv.toOnRom (t2, .csOn j) (by simp [← hafter]) ⟨j, rfl⟩
  rw [waitsLeft_of_timer_zero hv.cfg_eq timer, next] at bound
  have later := h.firstWaits_nonneg ops
  simp only [firstWaits, delayTime] at bound
  linarith

end Sys2Proof.Machine
end

section
/-!
PROOFS. The obligations on the transactions of the frame reader (41_frame_reader.md section 3): what each selection sends and its
gaps, and the commit time of a zero-set, in every run of the built ROM.
-/

namespace Sys2Proof.Proofs

open Sys2Proof Sys2Proof.Machine

/-- Settles O57: between its select and its deselect a run drives the bits of the XFERs that the ROM has there, and the WAIT after
each byte holds the next rising edge. -/
theorem interByteTime : Obligations.InterByteTime := by
  intro cfg inp inputs hcfg
  refine ⟨fun before n body after htrace hoff => ?_, fun htick before t0 n first t1 mid t2 after htrace hon _ hlast => ?_⟩
  · obtain ⟨before, select, hsplit, rfl, hselect⟩ := List.map_eq_append_iff.1 htrace
    obtain ⟨⟨t0, e⟩, rest, rfl, rfl, hrest⟩ := List.map_eq_cons_iff.1 hselect
    obtain ⟨body, deselect, rfl, rfl, hdeselect⟩ := List.map_eq_append_iff.1 hrest
    obtain ⟨⟨t1, e⟩, after, rfl, he, rfl⟩ := List.map_eq_cons_iff.1 hdeselect
    obtain ⟨v, inputs', hv, hbody⟩ := exists_selectionBegun hcfg hsplit
    cases he
    rw [hv.drivenBits_eq hcfg hbody.symm hoff, selectionBytes]
    simp only [decide_eq_true_eq]
  · obtain ⟨v, inputs', hv, hrest⟩ := exists_selectionBegun hcfg htrace
    exact hv.interByte_gap ⟨hcfg, htick⟩ hrest.symm (fun y hy ⟨j, hj⟩ => hon j y hy hj) hlast

/-- Settles O59: a CSD with a further CSD ahead of it is one of the preamble's, and is followed by WAIT CS_IDLE and WAIT ZERO. -/
theorem zeroSetCommitTime : Obligations.ZeroSetCommitTime := by
  intro cfg inp inputs hcfg htick before t1 n mid t2 j after htrace hcount
  refine zeroSet_commit_le ⟨hcfg, htick⟩ htrace (lt_of_eq_of_lt ?_ hcount)
  rw [List.countP_map, List.countP_eq_length_filter]
  congr 2
  funext x
  obtain ⟨t, e⟩ := x
  cases e <;> rfl

end Sys2Proof.Proofs
end

section
/-!
SUPPORT. The parity check (R502) by its two masks: the parity of the bits that a mask keeps is linear in the word, and the check asks
it of the odd-numbered and of the even-numbered bits. Last, CHK's three cases (R501).
-/

namespace Sys2Proof.Machine

open Sys2Proof

variable {s : State} {w : WordSel} {x : Word} {i j : Nat}

/-! ### The parity of the bits a mask keeps -/

/-- Whether an odd number of the bits of `x` that the mask `m` keeps are 1. -/
def maskParity (m x : Word) : Bool := (onesCount (x &&& m)).bodd

theorem maskParity_eq_true_iff (m x : Word) : maskParity m x = true ↔ onesCount (x &&& m) % 2 = 1 := by
  rw [Nat.mod_two_of_bodd, Bool.toNat_eq_one]
  rfl

theorem bodd_length_filter_cons (p : Nat → Bool) (i : Nat) (l : List Nat) :
    ((i :: l).filter p).length.bodd = (p i ^^ (l.filter p).length.bodd) := by
  cases hp : p i <;> simp [hp]

theorem bodd_length_filter_xor (p q : Nat → Bool) (l : List Nat) :
    (l.filter fun i => p i ^^ q i).length.bodd = ((l.filter p).length.bodd ^^ (l.filter q).length.bodd) := by
  induction l with
  | nil => simp
  | cons i l ih => simp only [bodd_length_filter_cons, ih, Bool.xor_assoc, Bool.xor_left_comm]

theorem maskParity_xor (m x y : Word) : maskParity m (x ^^^ y) = (maskParity m x ^^ maskParity m y) := by
  have bits : ((x ^^^ y) &&& m).getLsbD = fun i => (x &&& m).getLsbD i ^^ (y &&& m).getLsbD i := by
    funext i
    simp [Bool.and_xor_distrib_right]
  rw [maskParity, onesCount, bits, bodd_length_filter_xor]
  rfl

/-! ### The two groups of bits (R504) -/

/-- The mask of the odd-numbered bits. -/
def oddBits : Word := 0xAAAA

/-- The mask of the even-numbered bits. -/
def evenBits : Word := 0x5555

theorem beq_not_eq_xor (a b : Bool) : (a == !b) = (a ^^ b) := by
  cases a <;> simp

theorem maskParity_oddBits (x : Word) : maskParity oddBits x = (x.getLsbD 15 == k1Expected x) := by
  rw [k1Expected, beq_not_eq_xor]
  simp [maskParity, onesCount, oddBits, List.range_succ_eq_map, bodd_length_filter_cons, Bool.xor_comm]

theorem maskParity_evenBits (x : Word) : maskParity evenBits x = (x.getLsbD 14 == k0Expected x) := by
  rw [k0Expected, beq_not_eq_xor]
  simp [maskParity, onesCount, evenBits, List.range_succ_eq_map, bodd_length_filter_cons, Bool.xor_comm]

theorem parityValid_iff_maskParity (x : Word) :
    parityValid x = true ↔ maskParity oddBits x = true ∧ maskParity evenBits x = true := by
  rw [maskParity_oddBits, maskParity_evenBits, ← Bool.and_eq_true]
  rfl

/-! ### Flipped bits (R506) -/

theorem maskParity_bit : ∀ i < 16,
    maskParity oddBits (1#16 <<< i) = decide (i % 2 = 1) ∧ maskParity evenBits (1#16 <<< i) = decide (i % 2 = 0) := by
  decide

theorem parityValid_flip (h : parityValid x = true) (hi : i < 16) : parityValid (x ^^^ (1#16 <<< i)) = false := by
  obtain ⟨odd, even⟩ := (parityValid_iff_maskParity x).1 h
  obtain ⟨odd_i, even_i⟩ := maskParity_bit i hi
  rw [← Bool.not_eq_true, parityValid_iff_maskParity]
  simp only [maskParity_xor, odd, even, odd_i, even_i]
  obtain hgroup | hgroup := Nat.mod_two_eq_zero_or_one i <;> simp [hgroup]

theorem parityValid_flip_flip_iff (h : parityValid x = true) (hi : i < 16) (hj : j < 16) :
    parityValid (x ^^^ (1#16 <<< i) ^^^ (1#16 <<< j)) = true ↔ i % 2 = j % 2 := by
  obtain ⟨odd, even⟩ := (parityValid_iff_maskParity x).1 h
  obtain ⟨odd_i, even_i⟩ := maskParity_bit i hi
  obtain ⟨odd_j, even_j⟩ := maskParity_bit j hj
  rw [parityValid_iff_maskParity]
  simp only [maskParity_xor, odd, even, odd_i, even_i, odd_j, even_j]
  obtain hi2 | hi2 := Nat.mod_two_eq_zero_or_one i <;> obtain hj2 | hj2 := Nat.mod_two_eq_zero_or_one j <;> simp [hi2, hj2]

/-! ### The parity bits of a data value (R506) -/

/-- The expected parity bits read the data bits alone. -/
theorem expected_congr {x y : Word} (h : ∀ i < 14, x.getLsbD i = y.getLsbD i) :
    k1Expected x = k1Expected y ∧ k0Expected x = k0Expected y := by
  simp only [k1Expected, k0Expected, h, Nat.reduceLT, and_self]

theorem parityValid_append (k1 k0 : Bool) (d : BitVec 14) :
    parityValid (BitVec.ofBool k1 ++ BitVec.ofBool k0 ++ d)
      = (k1 == k1Expected (d.setWidth 16) && k0 == k0Expected (d.setWidth 16)) := by
  have data : ∀ i < 14, BitVec.getLsbD (BitVec.ofBool k1 ++ BitVec.ofBool k0 ++ d) i = (d.setWidth 16).getLsbD i := by
    intro i hi
    rw [BitVec.getLsbD_append, if_pos hi, BitVec.getLsbD_setWidth, decide_eq_true (by omega), Bool.true_and]
  have bit15 : BitVec.getLsbD (BitVec.ofBool k1 ++ BitVec.ofBool k0 ++ d) 15 = k1 := by
    simp only [BitVec.getLsbD_append]; simp
  have bit14 : BitVec.getLsbD (BitVec.ofBool k1 ++ BitVec.ofBool k0 ++ d) 14 = k0 := by
    simp only [BitVec.getLsbD_append]; simp
  obtain ⟨k1_eq, k0_eq⟩ := expected_congr data
  rw [parityValid, bit15, bit14, k1_eq, k0_eq]

/-! ### CHK (R501) -/

theorem exec_chk_of_mode (hmode : turnForbidden s.cfg w = true) : exec (.chk w) s = .next (s.raise .mode) := by
  simp [exec, execChk, hmode]

theorem exec_chk_of_unwritten (hmode : turnForbidden s.cfg w = false) (hword : s.word w = none) :
    exec (.chk w) s = .next (s.raise .unwritten) := by
  simp [exec, execChk, hmode, hword]

theorem exec_chk_of_word (hmode : turnForbidden s.cfg w = false) (hword : s.word w = some x) :
    exec (.chk w) s = .next (s.putValidity w (parityValid x)).advance := by
  simp [exec, execChk, hmode, hword]

end Sys2Proof.Machine
end

section
/-!
PROOFS. The obligations on the parity check (42_parity.md): its reading by masks, what it detects, and CHK.
-/

namespace Sys2Proof.Proofs

open Sys2Proof Sys2Proof.Machine

/-- Settles O6: each comparison of the check is the parity of one masked word. -/
theorem parityIsTwoOddPopcounts : Obligations.ParityIsTwoOddPopcounts := by
  intro x
  rw [parityValid_iff_maskParity, maskParity_eq_true_iff, maskParity_eq_true_iff]
  rfl

/-- Settles O7: bits 15 and 14 are the given ones, and the bits they are compared with depend on the data value alone. -/
theorem oneParityPairPerDataValue : Obligations.OneParityPairPerDataValue := by
  intro k1 k0 d
  rw [parityValid_append, Bool.and_eq_true, beq_iff_eq, beq_iff_eq]

/-- Settles O8: a flip changes the parity of its own group and of no other. -/
theorem paritySeesBitFlips : Obligations.ParitySeesBitFlips :=
  fun _ h => ⟨fun _ => parityValid_flip h, fun _ hi _ hj _ => parityValid_flip_flip_iff h hi hj⟩

/-- Settles O20: the three cases of CHK; the words are run. -/
theorem chkWritesValidity : Obligations.ChkWritesValidity := by
  refine ⟨by decide, by decide, by decide, by decide, by decide, fun s w => ⟨fun hw hmode => ?_, fun hmode hbytes => ?_, ?_⟩⟩
  · exact exec_chk_of_mode ((turnForbidden_iff _ _).2 ⟨hw, hmode⟩)
  · exact exec_chk_of_unwritten ((turnForbidden_eq_false_iff _ _).2 hmode) ((s.word_eq_none_iff w).2 hbytes)
  · intro b1 b0 hmode hhi hlo
    have hword : s.word w = some (b1 ++ b0) := (s.word_eq_some_iff w _).2 ⟨b1, b0, hhi, hlo, rfl⟩
    refine ⟨_, exec_chk_of_word ((turnForbidden_eq_false_iff _ _).2 hmode) hword, ?_, fun w' hw' => ?_, ?_, ?_⟩
    · simp [State.validity_putValidity]
    · simp [State.validity_putValidity, hw']
    · simp [MovesOn]
    · exact OnlyWrites.mono (advance_after_frame (putValidity_frame s w _)) (by cases w <;> simp)

end Sys2Proof.Proofs
end

section
/-!
SUPPORT. The normalizer (R552) bit by bit and its range (R554), what the named update of NRM stores, and NRM's four cases (R551).
-/

namespace Sys2Proof.Machine

open Sys2Proof

variable {s : State} {w : WordSel} {x : Word} {v : Bool} {i : Nat}

/-! ### The normalizer (R552, R554) -/

theorem getLsbD_dataMask : ∀ i < 16, BitVec.getLsbD (0x3FFF : Word) i = decide (i < 14) := by
  decide

theorem getLsbD_normalize_valid (x : Word) (hi : i < 16) :
    (normalize x true).getLsbD i = (decide (i < 14) && x.getLsbD i) := by
  change (x &&& 0x3FFF).getLsbD i = _
  rw [BitVec.getLsbD_and, getLsbD_dataMask i hi, Bool.and_comm]

theorem normalize_valid_le (x : Word) : (normalize x true).toNat ≤ 0x3FFF := by
  change (x &&& 0x3FFF).toNat ≤ 0x3FFF
  rw [BitVec.toNat_and]
  exact Nat.and_le_right

theorem normalize_eq_sentinel_iff (x : Word) (v : Bool) : normalize x v = sentinel ↔ v = false := by
  cases v with
  | false => exact iff_of_true rfl rfl
  | true =>
    refine iff_of_false (fun h => ?_) Bool.noConfusion
    have range := normalize_valid_le x
    rw [h] at range
    exact absurd range (by decide)

/-! ### What NRM stores -/

theorem State.readingsAt_putReading_position_self (s : State) (i : Nat) (r x : Word) (hp : i < s.pos.length)
    (hr : i < s.rawp.length) :
    (s.putReading .position i r x).posAt i = some r ∧ (s.putReading .position i r x).rawpAt i = some x :=
  ⟨List.getD_set_self_of_lt _ _ _ _ hp, List.getD_set_self_of_lt _ _ _ _ hr⟩

theorem State.readingsAt_putReading_turn_self (s : State) (i : Nat) (r x : Word) (ht : i < s.turn.length)
    (hr : i < s.rawt.length) :
    (s.putReading .turn i r x).turnAt i = some r ∧ (s.putReading .turn i r x).rawtAt i = some x :=
  ⟨List.getD_set_self_of_lt _ _ _ _ ht, List.getD_set_self_of_lt _ _ _ _ hr⟩

/-! ### NRM (R551) -/

theorem exec_nrm_of_channel_out_of_range (hch : s.channelOk = false) : exec (.nrm w) s = .next (s.raise .chRange) := by
  simp [exec, execNrm, hch]

theorem exec_nrm_of_mode (hch : s.channelOk = true) (hmode : turnForbidden s.cfg w = true) :
    exec (.nrm w) s = .next (s.raise .mode) := by
  simp [exec, execNrm, hch, hmode]

theorem exec_nrm_of_unwritten (hch : s.channelOk = true) (hmode : turnForbidden s.cfg w = false)
    (hnone : s.word w = none ∨ s.validity w = none) : exec (.nrm w) s = .next (s.raise .unwritten) := by
  obtain hword | hflag := hnone
  · simp [exec, execNrm, hch, hmode, hword]
  · simp [exec, execNrm, hch, hmode, hflag]

theorem exec_nrm_of_written (hch : s.channelOk = true) (hmode : turnForbidden s.cfg w = false) (hword : s.word w = some x)
    (hflag : s.validity w = some v) :
    exec (.nrm w) s = .next (s.putReading w s.channel (normalize x v) x).advance := by
  simp [exec, execNrm, hch, hmode, hword, hflag]

end Sys2Proof.Machine
end

section
/-!
PROOFS. The obligations on the normalizer (43_normalize.md): its values, and NRM.
-/

namespace Sys2Proof.Proofs

open Sys2Proof Sys2Proof.Machine

/-- Settles O9: the mask of the data bits, and its distance from the sentinel. -/
theorem normalizeMasksOrMarks : Obligations.NormalizeMasksOrMarks :=
  fun x => ⟨fun _ => getLsbD_normalize_valid x, rfl, normalize_valid_le x, normalize_eq_sentinel_iff x⟩

/-- Settles O22: the four cases of NRM; the encodings are run. -/
theorem nrmStoresReading : Obligations.NrmStoresReading := by
  refine ⟨by decide, by decide, fun s w => ⟨fun hch => ?_, fun hch hw hmode => ?_, fun hch hmode hnone => ?_, ?_⟩⟩
  · exact exec_nrm_of_channel_out_of_range (s.channelOk_eq_false_iff.2 hch)
  · exact exec_nrm_of_mode (s.channelOk_iff.2 hch) ((turnForbidden_iff _ _).2 ⟨hw, hmode⟩)
  · exact exec_nrm_of_unwritten (s.channelOk_iff.2 hch) ((turnForbidden_eq_false_iff _ _).2 hmode)
      (by rwa [s.word_eq_none_iff, or_assoc])
  · intro b1 b0 v ⟨_, _, hpos, hturn, hrawp, hrawt, _, _⟩ hch hmode hhi hlo hflag
    have hword : s.word w = some (b1 ++ b0) := (s.word_eq_some_iff w _).2 ⟨b1, b0, hhi, hlo, rfl⟩
    refine ⟨_, exec_nrm_of_written (s.channelOk_iff.2 hch) ((turnForbidden_eq_false_iff _ _).2 hmode) hword hflag, ?_, ?_,
      fun j hj => ?_, ?_, ?_⟩
    · rintro rfl
      obtain ⟨reading, raw⟩ := s.readingsAt_putReading_position_self s.channel (normalize (b1 ++ b0) v) (b1 ++ b0)
        (hpos ▸ hch) (hrawp ▸ hch)
      exact ⟨reading, raw, rfl, rfl⟩
    · rintro rfl
      obtain ⟨reading, raw⟩ := s.readingsAt_putReading_turn_self s.channel (normalize (b1 ++ b0) v) (b1 ++ b0)
        (hturn ▸ hch) (hrawt ▸ hch)
      exact ⟨reading, raw, rfl, rfl⟩
    · exact s.readingsAt_putReading_ne w s.channel j _ _ hj
    · simp [MovesOn]
    · exact OnlyWrites.mono (advance_after_frame (putReading_frame s w _ _ _)) (by cases w <;> simp)

end Sys2Proof.Proofs
end

section
/-!
SUPPORT. The value LED drives (R601, R602), and LED's three cases.
-/

namespace Sys2Proof.Machine

open Sys2Proof

variable {s : State} {v0 b : Bool}

/-! ### The value LED drives (R602) -/

theorem State.indicatorValue_of_position_unwritten (h : s.vPosition = none) : s.indicatorValue = none := by
  simp [State.indicatorValue, h]

theorem State.indicatorValue_of_position_written (h : s.vPosition = some v0) :
    s.indicatorValue =
      if s.cfg.mode = .multiTurn ∧ s.cfg.ledPolicy = .both then s.vTurn.map (v0 && ·) else some v0 := by
  simp [State.indicatorValue, h]

theorem State.indicatorValue_eq_none_iff (s : State) :
    s.indicatorValue = none ↔
      s.vPosition = none ∨ (s.cfg.mode = .multiTurn ∧ s.cfg.ledPolicy = .both ∧ s.vTurn = none) := by
  cases h : s.vPosition with
  | none => simp [State.indicatorValue_of_position_unwritten h]
  | some v0 =>
    rw [State.indicatorValue_of_position_written h, ← and_assoc]
    split <;> simp [*]

theorem State.indicatorValue_eq_some_iff (h : s.vPosition = some v0) :
    s.indicatorValue = some b ↔
      if s.cfg.mode = .multiTurn ∧ s.cfg.ledPolicy = .both then ∃ v1, s.vTurn = some v1 ∧ b = (v0 && v1) else b = v0 := by
  rw [State.indicatorValue_of_position_written h]
  split <;> simp [eq_comm]

/-! ### LED (R601) -/

theorem exec_led_of_channel_out_of_range (hch : s.channelOk = false) : exec .led s = .next (s.raise .chRange) := by
  simp [exec, execLed, hch]

theorem exec_led_of_unwritten (hch : s.channelOk = true) (hnone : s.indicatorValue = none) :
    exec .led s = .next (s.raise .unwritten) := by
  simp [exec, execLed, hch, hnone]

theorem exec_led_of_written (hch : s.channelOk = true) (hvalue : s.indicatorValue = some b) :
    exec .led s = .next (s.putIndicator s.channel b).advance := by
  simp [exec, execLed, hch, hvalue]

end Sys2Proof.Machine
end

section
/-!
PROOFS. The obligation on the status indicator (44_status.md).
-/

namespace Sys2Proof.Proofs

open Sys2Proof Sys2Proof.Machine

/-- Settles O21: the three cases of LED; the encoding is run. -/
theorem ledShowsValidity : Obligations.LedShowsValidity := by
  refine ⟨by decide, fun s => ⟨fun hch => ?_, fun hch hnone => ?_, ?_⟩⟩
  · exact exec_led_of_channel_out_of_range (s.channelOk_eq_false_iff.2 hch)
  · exact exec_led_of_unwritten (s.channelOk_iff.2 hch) (s.indicatorValue_eq_none_iff.2 hnone)
  · intro v0 b ⟨_, hled, _, _, _, _, hvalid, _⟩ hch hflag hb
    have hlit := s.lit_putIndicator_self s.channel b (hled ▸ hch)
    refine ⟨_, exec_led_of_written (s.channelOk_iff.2 hch) ((State.indicatorValue_eq_some_iff hflag).2 hb), hlit, ?_, hlit,
      fun j hj => ⟨?_, ?_⟩, ?_, ?_⟩
    · exact s.validAt_putIndicator_self s.channel b (hvalid ▸ hch)
    · exact s.lit_putIndicator_ne s.channel j b hj
    · exact s.validAt_putIndicator_ne s.channel j b hj
    · simp [MovesOn]
    · exact OnlyWrites.mono (advance_after_frame (putIndicator_frame s _ _)) (by simp)

end Sys2Proof.Proofs
end

section
/-!
SUPPORT. What a fetch finds where it faults (R694, R721), and the cases of CHS, NXT, JMP, PUB and GO (45_sequencer.md).
-/

namespace Sys2Proof.Machine

open Sys2Proof

variable {i : Instr} {s t : State} {n : Byte} {a : Addr}

/-! ### The fetch (R694, R721) -/

theorem fetch_of_fault (hcfg : configOk s.cfg = true) (hf : s.fault ≠ FaultSet.none) : fetch s = .faulted := by
  simp [fetch, hcfg, hf]

/-- F2: `upc` is past the ROM's end, or the carry says that it is at 256. -/
theorem fetch_of_past_rom (hcfg : configOk s.cfg = true) (hf : s.fault = FaultSet.none)
    (hpast : s.upcCarry = true ∨ s.rom.length ≤ s.upc.toNat) : fetch s = .raises .upcRange := by
  obtain hcarry | hlength := hpast
  · simp [fetch, hcfg, hf, hcarry]
  · simp [fetch, hcfg, hf, List.getElem?_eq_none hlength]

/-- F1: no micro-op decodes to the word at `upc`. -/
theorem fetch_of_illegal_word {u : Word} {why : DecodeError} (hcfg : configOk s.cfg = true) (hf : s.fault = FaultSet.none)
    (hcarry : s.upcCarry = false) (hu : s.rom[s.upc.toNat]? = some u) (hd : decodeWord u = .illegal why) :
    fetch s = .raises .illegalUop := by
  simp [fetch, hcfg, hf, hcarry, hu, hd]

theorem currentOp_of_word {u : Word} (hcarry : s.upcCarry = false) (hu : s.rom[s.upc.toNat]? = some u)
    (hd : decodeWord u = .ok i) : currentOp s = some i := by
  simp [currentOp, hcarry, hu, hd]

theorem sequencerStep_of_fetch_raises {c : FaultCode} (h : fetch s = .raises c) : sequencerStep s = .next (s.raise c) := by
  unfold sequencerStep
  rw [h]

theorem step_of_fetch_faulted (h : fetch s = .faulted) : step s = .fault (.noStep s.fault) := by
  unfold step sequencerStep
  rw [h]
  rfl

/-- Every micro-op answers a next state (R741). -/
theorem exists_exec_eq_next (i : Instr) (s : State) : ∃ t, exec i s = .next t := by
  cases i <;> exact ⟨_, rfl⟩

/-! ### Operand bytes (R304) -/

theorem formatU_zero_zero (b : Byte) : formatU 0 0 b = b.setWidth 16 := by
  rw [BitVec.setWidth_eq_append (by decide : 8 ≤ 16)]
  exact congrArg (· ++ b) (by decide : (0 : BitVec 4) ++ (0 : BitVec 4) = 0#8)

/-- The word of a micro-op whose operand is the whole of `B`. -/
theorem formatU_byteOperand (o : BitVec 4) (b : Byte) : formatU o 0 b = formatU o 0 0 ||| b.setWidth 16 := by
  have joined : formatU o 0 0 ||| formatU 0 0 b = formatU (o ||| 0) (0 ||| 0) (0 ||| b) :=
    BitVec.or_append.trans (congrArg (· ++ _) BitVec.or_append)
  rw [← formatU_zero_zero, joined]
  simp

/-! ### CHS, NXT, JMP and GO (R651, R661, R671, R686) -/

theorem exec_chs_of_out_of_range (h : s.cfg.n ≤ n.toNat) : exec (.chs n) s = .next (s.raise .chRange) := by
  simp [exec, execChs, h]

theorem exec_chs_of_channel (h : n.toNat < s.cfg.n) : exec (.chs n) s = .next (s.putChannel n).advance := by
  simp [exec, execChs, h]

theorem exec_nxt_of_channel_left (h : s.channel + 1 < s.cfg.n) :
    exec (.nxt a) s = .next ((s.putChannel (s.ch + 1)).jump a) := by
  simp [exec, execNxt, h]

theorem exec_nxt_of_last_channel (h : s.cfg.n ≤ s.channel + 1) : exec (.nxt a) s = .next s.advance := by
  simp [exec, execNxt, h]

/-- D38: below `N ≤ 256` the next channel's number does not wrap. -/
theorem toNat_next_channel (h : s.channel + 1 < s.cfg.n) (hn : s.cfg.n ≤ 256) : (s.ch + 1).toNat = s.channel + 1 := by
  have small : s.channel + 1 < 256 := by omega
  simpa [State.channel] using small

theorem exec_jmp (a : Addr) (s : State) : exec (.jmp a) s = .next (s.jump a) := rfl

theorem exec_go_of_cycling (h : s.phase = .cycling) : exec .go s = .next (s.raise .phase) := by
  simp [exec, execGo, h]

theorem exec_go_of_idle (h : s.phase = .idle) : exec .go s = .next s.startCycling.advance := by
  simp [exec, execGo, h]

/-! ### PUB (R681) -/

theorem exec_pub_of_unwritten (hreq : s.pubReq = false) (hrelease : s.pubRelease = false)
    (hnone : s.channelArray.any Option.isNone = true) : exec .pub s = .next (s.raise .unwritten) := by
  simp only [exec, execPub, hreq, hrelease, hnone]
  rfl

theorem exec_pub_of_written (hreq : s.pubReq = false) (hrelease : s.pubRelease = false)
    (hwritten : s.channelArray.any Option.isNone = false) : exec .pub s = .next (s.publish s.channelArray) := by
  simp only [exec, execPub, hreq, hrelease, hwritten]
  rfl

theorem exec_pub_of_request (hreq : s.pubReq = true) :
    exec .pub s = .next (if s.pubAck then s.withdraw else s) := by
  simp [exec, execPub, hreq]

theorem exec_pub_of_release (hreq : s.pubReq = false) (hrelease : s.pubRelease = true) :
    exec .pub s = .next (if s.pubAck then s else s.closeHandshake.advance) := by
  simp [exec, execPub, hreq, hrelease]

/-- What is published is the channel array, entry by entry. -/
theorem publishedAt_publish {j : Nat} (hj : j < s.cfg.n) : (s.publish s.channelArray).publishedAt j = s.posAt j :=
  s.getD_channelArray j hj

/-! ### The words of the built ROM (R690) -/

theorem map_decodeWord_buildRom (cfg : Config) : (buildRom cfg).map decodeWord = (romOps cfg).map Decoded.ok :=
  List.ext_getElem? fun p => by
    rw [List.getElem?_map, List.getElem?_map, decodeWord_getElem?_buildRom]

end Sys2Proof.Machine
end

section
/-!
PROOFS. The obligations on the sequencer (45_sequencer.md) that speak of one micro-op, one step or the ROM's words.
-/

namespace Sys2Proof.Proofs

open Sys2Proof Sys2Proof.Machine

/-- Settles O5: every micro-op of the ROM is well-formed, so the decoder reads its encoding back; the lengths are those of the lists. -/
theorem romImageDecodes : Obligations.RomImageDecodes := by
  intro cfg
  refine ⟨map_decodeWord_buildRom cfg, length_buildRom_singleTurn cfg, length_buildRom_multiTurn cfg, fun hcfg => ?_⟩
  simpa [buildRom] using length_romOps_le hcfg

/-- Settles O32: where a micro-op does not leave `FAULT` as it is, it is `State.raise`. -/
theorem faultingMicroOpWritesNothing : Obligations.FaultingMicroOpWritesNothing := by
  intro i s t h hfault
  exact (exec_fault_eq_or_raise h).resolve_left hfault

/-- Settles O23: the two cases of CHS. -/
theorem chsSetsChannel : Obligations.ChsSetsChannel := by
  intro s n
  refine ⟨formatU_byteOperand 0x8 n, exec_chs_of_out_of_range, fun hn => ?_⟩
  exact ⟨_, exec_chs_of_channel hn, rfl, ⟨rfl, rfl⟩, advance_after_frame (putChannel_frame s n)⟩

/-- Settles O24: the two cases of NXT; the fetch at its target is one past the ROM. -/
theorem nxtLoopsOverChannels : Obligations.NxtLoopsOverChannels := by
  intro s a
  refine ⟨formatU_byteOperand 0x9 a, fun hleft hn => ?_, fun hlast => ?_⟩
  · exact ⟨_, exec_nxt_of_channel_left hleft, toNat_next_channel hleft hn, rfl, rfl,
      fun hcfg hf hpast => fetch_of_past_rom hcfg hf (.inr hpast), OnlyWrites.trans (putChannel_frame s _) (jump_frame _ a)⟩
  · exact ⟨_, exec_nxt_of_last_channel hlast, ⟨rfl, rfl⟩, advance_frame s⟩

/-- Settles O25: JMP is `State.jump`; the fetch at its target is one past the ROM. -/
theorem jmpGoesToTarget : Obligations.JmpGoesToTarget := by
  intro s a
  exact ⟨formatU_byteOperand 0xA a, _, exec_jmp a s, rfl, rfl, fun hcfg hf hpast => fetch_of_past_rom hcfg hf (.inr hpast),
    jump_frame s a⟩

/-- Settles O26: the phases of the handshake, each held or left. -/
theorem pubHandsOverTheArray : Obligations.PubHandsOverTheArray := by
  intro s
  refine ⟨fun hreq hrelease hnone => ?_, fun hreq hrelease hwritten => ?_, fun hreq hack => ?_, fun hreq hack => ?_,
    fun hreq hrelease hack => ?_, fun hreq hrelease hack => ?_⟩
  · exact exec_pub_of_unwritten hreq hrelease (s.channelArray_written_iff.2 hnone)
  · have written : s.channelArray.any Option.isNone = false := by
      rw [← Bool.not_eq_true, s.channelArray_written_iff]
      rintro ⟨j, hj, hnone⟩
      exact hwritten j hj hnone
    exact ⟨_, exec_pub_of_written hreq hrelease written, rfl, length_channelArray s, fun j => publishedAt_publish,
      publish_frame s _⟩
  · rw [exec_pub_of_request hreq, hack]
    rfl
  · exact ⟨s.withdraw, by rw [exec_pub_of_request hreq, hack]; rfl, rfl, rfl, withdraw_frame s⟩
  · rw [exec_pub_of_release hreq hrelease, hack]
    rfl
  · exact ⟨s.closeHandshake.advance, by rw [exec_pub_of_release hreq hrelease, hack]; rfl, rfl, ⟨rfl, rfl⟩,
      advance_after_frame (closeHandshake_frame s)⟩

/-- Settles O27: the two phases of the loop; the encoding is run. -/
theorem goStartsCyclingOnce : Obligations.GoStartsCyclingOnce := by
  refine ⟨rfl, fun s => ⟨exec_go_of_cycling, fun hidle => ?_⟩⟩
  exact ⟨_, exec_go_of_idle hidle, rfl, ⟨rfl, rfl⟩, advance_after_frame (startCycling_frame s)⟩

/-- Settles O33: the fetch finds the decoded micro-op, and every micro-op answers a next state. -/
theorem stepRunsDecodedMicroOp : Obligations.StepRunsDecodedMicroOp := by
  intro s u i hcfg hf hcarry hu hd
  obtain ⟨t, ht⟩ := exists_exec_eq_next i s
  have run : sequencerStep s = .next t := by
    rw [sequencerStep_of_fetch ((fetch_run_iff i).2 ⟨hcfg, hf, currentOp_of_word hcarry hu hd⟩), ht]
  exact ⟨t, ht, step_of_sequencerStep run, stepWith_of_sequencerStep run⟩

/-- Settles O34: the fetch's own order, `FAULT` first, then the ROM's end, then the word. -/
theorem fetchFaultsInOrder : Obligations.FetchFaultsInOrder := by
  refine fun s hcfg => ⟨fun hf => ?_, fun hf hpast => ?_, fun u why hf hcarry hu hd => ?_⟩
  · exact step_of_fetch_faulted (fetch_of_fault hcfg hf)
  · exact step_of_sequencerStep (sequencerStep_of_fetch_raises (fetch_of_past_rom hcfg hf hpast))
  · exact step_of_sequencerStep (sequencerStep_of_fetch_raises (fetch_of_illegal_word hcfg hf hcarry hu hd))

end Sys2Proof.Proofs
end

section
/-!
SUPPORT. The selections and publications of a run (R695): which of them a run of the built ROM has left until its next jump back to
CHS 0, and what a step takes from them.
-/

namespace Sys2Proof.Machine

open Sys2Proof

variable {cfg : Config} {i : Instr} {s t : State} {a : Addr} {ops : List Instr}

/-! ### The parts of the body (R691, R692) -/

/-- The body from PUB on. -/
def pubOps (cfg : Config) : List Instr := [.pub, .wait .cycle, .jmp (BitVec.ofNat 8 (romBase cfg + 1))]

/-- The body from NXT on. -/
def loopOps (cfg : Config) : List Instr := .nxt (BitVec.ofNat 8 (romBase cfg + 2)) :: pubOps cfg

/-- One reading: what the body has between CSA and NXT. -/
def readingOps : Mode → List Instr
  | .singleTurn =>
    [.wait .settle, .xfer .read false .position .hi, .wait .settle, .xfer .read false .position .lo, .wait .hold, .csd,
      .wait .csIdle, .chk .position, .led, .nrm .position]
  | .multiTurn =>
    [.wait .settle, .xfer .read false .position .hi, .wait .settle, .xfer .readTurn false .position .lo, .wait .turn,
      .xfer .read false .turn .hi, .wait .settle, .xfer .read false .turn .lo, .wait .hold, .csd, .wait .csIdle,
      .chk .position, .chk .turn, .led, .nrm .position, .nrm .turn]

theorem romBody_eq (cfg : Config) : romBody cfg = .go :: .chs 0 :: .csa :: (readingOps cfg.mode ++ loopOps cfg) := by
  unfold romBody
  cases cfg.mode <;> rfl

theorem ahead_of_bodyAddress {k : Nat} (hcfg : configOk cfg = true) (hk : k < 6)
    (hupc : t.upc = BitVec.ofNat 8 (romBase cfg + k)) (hcarry : t.upcCarry = false) : t.ahead cfg = (romBody cfg).drop k := by
  rw [State.ahead, hupc, hcarry, toNat_bodyAddress hcfg hk]
  exact drop_romOps_body cfg k

theorem tail_eq_of_suffix {α : Type} {x : α} {l tail rest : List α} (h : x :: rest <:+ l ++ x :: tail) (hl : x ∉ l)
    (htail : x ∉ tail) : rest = tail := by
  obtain hsuffix | hsuffix := List.suffix_or_suffix_of_suffix h (List.suffix_append l (x :: tail))
  · obtain heq | hsuffix := List.suffix_cons_iff.1 hsuffix
    · exact List.tail_eq_of_cons_eq heq
    · exact absurd (hsuffix.subset List.mem_cons_self) htail
  · obtain ⟨between, hbetween⟩ := hsuffix
    obtain ⟨front, hfront⟩ := h
    have split : front ++ between = l := List.append_cancel_right (by rw [List.append_assoc, hbetween, hfront])
    cases between with
    | nil => exact (List.tail_eq_of_cons_eq hbetween).symm
    | cons y between =>
      obtain ⟨rfl, -⟩ := List.cons_eq_cons.1 hbetween
      exact absurd (split ▸ by simp) hl

/-- R691, R692: the ROM's one NXT is followed by PUB. -/
theorem ops_after_nxt (h : s.ahead cfg = .nxt a :: ops) : ops = pubOps cfg := by
  have suffix : .nxt a :: ops <:+ romOps cfg := h ▸ ahead_suffix cfg s
  obtain rfl := nxt_mem_romOps (suffix.subset List.mem_cons_self)
  have rom : romOps cfg = (preambleOps cfg.zeroSetChannels ++ .go :: .chs 0 :: .csa :: readingOps cfg.mode) ++ loopOps cfg := by
    rw [romOps, ← romBody, romBody_eq]
    simp
  rw [rom] at suffix
  refine tail_eq_of_suffix suffix ?_ (by simp [pubOps])
  cases cfg.mode <;> simp [preambleOps, zeroSetOps, readingOps]

/-! ### The `CS_ON` and `PUB_REQ(1)` events of a step -/

theorem cycleEvents_append (tr tr' : List PinEvent) : cycleEvents (tr ++ tr') = cycleEvents tr ++ cycleEvents tr' :=
  List.filter_append _ _

/-- Only a select line that rises and a publication make such an event. -/
theorem cycleEvents_stepEvents (h : t.cs = s.cs) :
    cycleEvents ((stepEvents s t).map Prod.snd) = if !s.pubReq && t.pubReq then [.pubReq true] else [] := by
  have clock : cycleEvents ((if !s.sclk && t.sclk then [(0, PinEvent.mosi t.mosi)] else []).map (Prod.snd (α := ℚ))) = []
      ∧ cycleEvents (if !s.sclk && t.sclk then [.sclkRise, .sample s.miso] else []) = []
      ∧ cycleEvents (if s.sclk && !t.sclk then [.sclkFall] else []) = [] := by
    cases s.sclk <;> cases t.sclk <;> exact ⟨rfl, rfl, rfl⟩
  have led : cycleEvents (if fetch s = .run .led ∧ t.fault = s.fault then [.led s.channel (t.lit s.channel)] else []) = [] := by
    split <;> rfl
  have handshake : cycleEvents (if s.pubReq ≠ t.pubReq then [.pubReq t.pubReq] else [])
      = if !s.pubReq && t.pubReq then [.pubReq true] else [] := by
    cases s.pubReq <;> cases t.pubReq <;> rfl
  obtain ⟨mosi, rise, fall⟩ := clock
  have stamps : ((endEvents s t).map fun e => (stepFloor s t, e)).map Prod.snd = endEvents s t := by simp [Function.comp_def]
  rw [stepEvents, List.map_append, stamps, endEvents, selectEvents_of_cs_eq h]
  simp only [cycleEvents_append, mosi, rise, fall, led, handshake]
  rfl

theorem cycleEvents_stepEvents_eq_nil (h : t.cs = s.cs) (hreq : t.pubReq = s.pubReq) :
    cycleEvents ((stepEvents s t).map Prod.snd) = [] := by
  rw [cycleEvents_stepEvents h, hreq]
  cases s.pubReq <;> rfl

theorem exec_cycleEvents_eq_nil (he : exec i s = .next t) (hcsa : i ≠ .csa) (hcsd : i ≠ .csd) (hpub : i ≠ .pub) :
    cycleEvents ((stepEvents s t).map Prod.snd) = [] := by
  obtain ⟨hreq, -⟩ := exec_handshake_eq he hpub
  exact cycleEvents_stepEvents_eq_nil (exec_cs_eq he hcsa hcsd) hreq

/-! ### The selections and publications that are left -/

/-- The `CS_ON` and `PUB_REQ(1)` events that these micro-ops make until the next JMP, from channel `ch` on, with `n` channels in all. -/
def cycleEventsOf (n : Nat) : Nat → List Instr → List PinEvent
  | _, [] => []
  | ch, i :: ops =>
    match i with
    | .csa => .csOn ch :: cycleEventsOf n ch ops
    | .chs m => cycleEventsOf n m.toNat ops
    | .nxt _ => (List.range' (ch + 1) (n - (ch + 1))).map .csOn ++ cycleEventsOf n ch ops
    | .pub => .pubReq true :: cycleEventsOf n ch ops
    | .jmp _ => []
    | _ => cycleEventsOf n ch ops

/-- The micro-ops ahead, without a PUB whose publication is out. -/
def State.unpublished (cfg : Config) (s : State) : List Instr :=
  if s.pubReq || s.pubRelease then (s.ahead cfg).tail else s.ahead cfg

/-- The `CS_ON` and `PUB_REQ(1)` events that a run has left until its next JMP. -/
def State.cycleLeft (cfg : Config) (s : State) : List PinEvent := cycleEventsOf cfg.n s.channel (s.unpublished cfg)

@[simp] theorem cycleLeft_drive (cfg : Config) (s : State) (inp : Inputs) : (s.drive inp).cycleLeft cfg = s.cycleLeft cfg := rfl

@[simp] theorem cycleLeft_raise (cfg : Config) (s : State) (c : FaultCode) : (s.raise c).cycleLeft cfg = s.cycleLeft cfg := rfl

theorem cycleLeft_of_no_handshake (hreq : s.pubReq = false) (hrelease : s.pubRelease = false) :
    s.cycleLeft cfg = cycleEventsOf cfg.n s.channel (s.ahead cfg) := by
  rw [State.cycleLeft, State.unpublished, hreq, hrelease]
  rfl

theorem cycleLeft_of_handshake (h : s.pubReq = true ∨ s.pubRelease = true) :
    s.cycleLeft cfg = cycleEventsOf cfg.n s.channel (s.ahead cfg).tail := by
  rw [State.cycleLeft, State.unpublished, if_pos (by simpa using h)]

/-- From its CSA on, the body selects the rest of the channels and publishes. -/
theorem cycleEventsOf_body_csa {ch : Nat} (cfg : Config) (hch : ch < cfg.n) :
    cycleEventsOf cfg.n ch ((romBody cfg).drop 2) = (List.range' ch (cfg.n - ch)).map .csOn ++ [.pubReq true] := by
  have ordered : List.range' ch (cfg.n - ch) = ch :: List.range' (ch + 1) (cfg.n - (ch + 1)) := by
    rw [show cfg.n - ch = cfg.n - (ch + 1) + 1 by omega, List.range'_succ]
  rw [ordered, romBody_eq]
  cases cfg.mode <;> rfl

/-- From its CHS 0 on, the body is one cycle. -/
theorem cycleEventsOf_body_chs (cfg : Config) (ch : Nat) (hn : 0 < cfg.n) :
    cycleEventsOf cfg.n ch ((romBody cfg).drop 1) = oneCycle cfg.n := by
  have body := cycleEventsOf_body_csa cfg hn
  rw [oneCycle, List.range_eq_range']
  rw [romBody_eq] at body ⊢
  exact body

theorem cycleEventsOf_preamble (n : Nat) (channels : List Nat) (hfit : ∀ c ∈ channels, c < 256) :
    ∀ ch, ∃ ch', cycleEventsOf n ch (preambleOps channels ++ ops) = channels.map .csOn ++ cycleEventsOf n ch' ops := by
  induction channels with
  | nil => exact fun ch => ⟨ch, rfl⟩
  | cons c channels ih =>
    intro ch
    obtain ⟨hc, hfit⟩ := List.forall_mem_cons.1 hfit
    obtain ⟨ch', rest⟩ := ih hfit (BitVec.ofNat 8 c).toNat
    have number : (BitVec.ofNat 8 c).toNat = c := Nat.mod_eq_of_lt hc
    refine ⟨ch', ?_⟩
    rw [preambleOps_cons_append, List.map_cons, List.cons_append, ← rest, ← number]
    simp [cycleEventsOf, zeroSetOps]

theorem cycleLeft_poweredUp (hcfg : configOk cfg = true) (inp : Inputs) :
    (poweredUp cfg inp).cycleLeft cfg = cfg.zeroSetChannels.map .csOn ++ oneCycle cfg.n := by
  obtain ⟨hn, hn256, -, -, hzero, -⟩ := (configOk_iff cfg).1 hcfg
  obtain ⟨ch, preamble⟩ := cycleEventsOf_preamble (ops := romBody cfg) cfg.n cfg.zeroSetChannels
    (fun c hc => (hzero c hc).trans_le hn256) 0
  have body : cycleEventsOf cfg.n ch (romBody cfg) = oneCycle cfg.n := by
    rw [← cycleEventsOf_body_chs cfg ch hn, romBody_eq]
    rfl
  rw [body] at preamble
  exact preamble

/-! ### What a step takes from them -/

/-- A step makes the next of the selections and publications that are left, or none; or it is the JMP that begins a cycle. -/
def CycleStep (cfg : Config) (s t : State) : Prop :=
  cycleEvents ((stepEvents s t).map Prod.snd) ++ t.cycleLeft cfg = s.cycleLeft cfg
    ∨ (s.cycleLeft cfg = [] ∧ cycleEvents ((stepEvents s t).map Prod.snd) = [] ∧ t.cycleLeft cfg = oneCycle cfg.n)

theorem cycleStep_raise (cfg : Config) (s : State) (c : FaultCode) : CycleStep cfg s (s.raise c) := by
  refine .inl ?_
  rw [cycleEvents_stepEvents_eq_nil (s.raise_cs c) (s.raise_pubReq c), cycleLeft_raise, List.nil_append]

/-- PUB makes its event when it publishes, and is done with once it completes. -/
theorem pub_cycleStep (hcfg : configOk cfg = true) (hops : s.ahead cfg = .pub :: ops) (he : exec .pub s = .next t) :
    CycleStep cfg s t := by
  have cs : t.cs = s.cs := exec_cs_eq he (by simp) (by simp)
  obtain ⟨hreq, -, rfl⟩ | ⟨-, -, rfl⟩ | ⟨-, -, -, rfl⟩ | ⟨hreq, hrelease, -, rfl⟩ | ⟨-, -, -, rfl⟩ | ⟨hreq, hrelease, -, rfl⟩ :=
    exec_pub_cases he
  · refine .inl ?_
    rw [cycleEvents_stepEvents cs, cycleLeft_of_handshake (s := s) (.inl hreq), cycleLeft_of_handshake (.inr rfl), hreq]
    rfl
  · exact .inl (by rw [cycleEvents_stepEvents_eq_nil rfl rfl]; rfl)
  · exact .inl (by rw [cycleEvents_stepEvents_eq_nil rfl rfl]; rfl)
  · refine .inl ?_
    have next : s.closeHandshake.advance.ahead cfg = ops := ahead_of_movesOn hcfg ⟨rfl, rfl⟩ hops
    rw [cycleEvents_stepEvents_eq_nil cs rfl, cycleLeft_of_handshake (s := s) (.inr hrelease),
      cycleLeft_of_no_handshake (s := s.closeHandshake.advance) hreq rfl, next, hops]
    rfl
  · exact cycleStep_raise cfg s _
  · refine .inl ?_
    have here : (s.publish s.channelArray).ahead cfg = .pub :: ops := hops
    rw [cycleEvents_stepEvents cs, cycleLeft_of_no_handshake hreq hrelease, cycleLeft_of_handshake (.inl rfl), here, hops, hreq]
    rfl

/-- A step of another micro-op, as the micro-ops ahead and the current channel tell it. -/
theorem OnRom.cycleStep_of_not_pub (hs : OnRom cfg s) (hops : s.ahead cfg = i :: ops) (hi : i ≠ .pub) (he : exec i s = .next t)
    (h : cycleEvents ((stepEvents s t).map Prod.snd) ++ cycleEventsOf cfg.n t.channel (t.ahead cfg)
        = cycleEventsOf cfg.n s.channel (i :: ops)
      ∨ (cycleEventsOf cfg.n s.channel (i :: ops) = [] ∧ cycleEvents ((stepEvents s t).map Prod.snd) = []
        ∧ cycleEventsOf cfg.n t.channel (t.ahead cfg) = oneCycle cfg.n)) : CycleStep cfg s t := by
  obtain ⟨hreq, hrelease⟩ := handshake_eq_false_of_owned hs.holds (hs.currentOp_of_ahead hops) hi
  obtain ⟨hreq', hrelease'⟩ := exec_handshake_eq he hi
  rwa [CycleStep, cycleLeft_of_no_handshake hreq hrelease, cycleLeft_of_no_handshake (hreq'.trans hreq) (hrelease'.trans hrelease),
    hops]

/-- A micro-op that the selections and publications do not depend on. -/
theorem OnRom.cycleStep_of_passed (hcfg : configOk cfg = true) (hs : OnRom cfg s) (hops : s.ahead cfg = i :: ops)
    (he : exec i s = .next t) (hi : .ch ∉ writtenBy i ∧ .cs ∉ writtenBy i ∧ .pubReq ∉ writtenBy i) (hjmp : ∀ a, i ≠ .jmp a)
    (hpassed : ∀ ch, cycleEventsOf cfg.n ch (i :: ops) = cycleEventsOf cfg.n ch ops) : CycleStep cfg s t := by
  obtain ⟨hch, hcs, hreq⟩ := hi
  have channel : t.channel = s.channel := congrArg BitVec.toNat (exec_frame he .ch hch)
  have none_made := cycleEvents_stepEvents_eq_nil (exec_frame he .cs hcs) (exec_frame he .pubReq hreq)
  refine hs.cycleStep_of_not_pub hops (by rintro rfl; simp [writtenBy] at hreq) he (.inl ?_)
  rw [none_made, channel, List.nil_append]
  obtain hstay | ⟨-, hnext⟩ | ⟨⟨a, rfl | rfl⟩, -⟩ := exec_ahead_cases hcfg hops he
  · rw [hstay]
  · rw [hnext, hpassed]
  · simp [writtenBy] at hch
  · exact absurd rfl (hjmp a)

/-- A micro-op that faults, or moves on with its event. -/
theorem OnRom.cycleStep_of_moves (hcfg : configOk cfg = true) (hs : OnRom cfg s) (hops : s.ahead cfg = i :: ops) (hi : i ≠ .pub)
    (he : exec i s = .next t)
    (h : (∃ c, t = s.raise c) ∨ (MovesOn s t ∧ cycleEvents ((stepEvents s t).map Prod.snd) ++ cycleEventsOf cfg.n t.channel ops
      = cycleEventsOf cfg.n s.channel (i :: ops))) : CycleStep cfg s t := by
  obtain ⟨c, rfl⟩ | ⟨hmoves, hevents⟩ := h
  · exact cycleStep_raise cfg s c
  · refine hs.cycleStep_of_not_pub hops hi he (.inl ?_)
    rwa [ahead_of_movesOn hcfg hmoves hops]

/-- NXT goes back to the body's CSA for the next channel, or on to PUB after the last one. -/
theorem OnRom.nxt_cycleStep (hcfg : configOk cfg = true) (hs : OnRom cfg s) (hops : s.ahead cfg = .nxt a :: ops)
    (he : exec (.nxt a) s = .next t) : CycleStep cfg s t := by
  obtain ⟨-, hn, -⟩ := (configOk_iff cfg).1 hcfg
  refine hs.cycleStep_of_not_pub hops (by simp) he (.inl ?_)
  rw [exec_cycleEvents_eq_nil he (by simp) (by simp) (by simp)]
  obtain ⟨hleft, rfl⟩ | ⟨hlast, rfl⟩ := exec_nxt_cases he
  · have target : a = BitVec.ofNat 8 (romBase cfg + 2) :=
      nxt_mem_romOps ((ahead_suffix cfg s).subset (hops ▸ List.mem_cons_self))
    have jumped : ((s.putChannel (s.ch + 1)).jump a).ahead cfg = (romBody cfg).drop 2 :=
      ahead_of_bodyAddress hcfg (by decide) target rfl
    rw [hs.cfg_eq] at hleft
    have channel : ((s.putChannel (s.ch + 1)).jump a).channel = s.channel + 1 :=
      toNat_next_channel (hs.cfg_eq ▸ hleft) (hs.cfg_eq ▸ hn)
    rw [jumped, channel, cycleEventsOf_body_csa cfg hleft, ops_after_nxt hops]
    rfl
  · have none_left : cfg.n - (s.channel + 1) = 0 := by
      rw [hs.cfg_eq] at hlast
      omega
    rw [ahead_of_movesOn hcfg ⟨rfl, rfl⟩ hops]
    simp [cycleEventsOf, none_left]

/-- JMP goes back to the body's CHS 0, with nothing left of the cycle before. -/
theorem OnRom.jmp_cycleStep (hcfg : configOk cfg = true) (hs : OnRom cfg s) (hops : s.ahead cfg = .jmp a :: ops)
    (he : exec (.jmp a) s = .next t) : CycleStep cfg s t := by
  obtain ⟨hn, -⟩ := (configOk_iff cfg).1 hcfg
  refine hs.cycleStep_of_not_pub hops (by simp) he (.inr ⟨rfl, exec_cycleEvents_eq_nil he (by simp) (by simp) (by simp), ?_⟩)
  have target : a = BitVec.ofNat 8 (romBase cfg + 1) :=
    jmp_mem_romOps ((ahead_suffix cfg s).subset (hops ▸ List.mem_cons_self))
  obtain rfl := exec_jmp_cases he
  rw [ahead_of_bodyAddress hcfg (by decide) (show (s.jump a).upc = _ from target) rfl, cycleEventsOf_body_chs cfg _ hn]

theorem Running.cycleStep (hcfg : configOk cfg = true) (hs : Running cfg s) (h : sequencerStep s = .next t) : CycleStep cfg s t := by
  obtain ⟨c, -, rfl⟩ | ⟨i, hi, he⟩ := sequencerStep_cases h
  · exact cycleStep_raise cfg s c
  · obtain ⟨-, -, hop⟩ := (fetch_run_iff i).1 hi
    obtain ⟨ops, hops⟩ := hs.exists_ahead_eq_cons hop
    have onRom := hs.toOnRom
    cases i with
    | csa =>
      refine onRom.cycleStep_of_moves hcfg hops (by simp) he ((hs.csa_step hop h).imp_right ?_)
      rintro ⟨rfl, hevents⟩
      exact ⟨⟨rfl, rfl⟩, by rw [hevents]; rfl⟩
    | csd =>
      refine onRom.cycleStep_of_moves hcfg hops (by simp) he ((csd_step hop h).imp_right ?_)
      rintro ⟨rfl, hevents⟩
      exact ⟨⟨rfl, rfl⟩, by rw [hevents]; rfl⟩
    | chs n =>
      have none_made := exec_cycleEvents_eq_nil he (by simp) (by simp) (by simp)
      obtain ⟨-, rfl⟩ | ⟨-, rfl⟩ := exec_chs_cases he
      · exact cycleStep_raise cfg s _
      · exact onRom.cycleStep_of_moves hcfg hops (by simp) he (.inr ⟨⟨rfl, rfl⟩, by rw [none_made]; rfl⟩)
    | nxt a => exact onRom.nxt_cycleStep hcfg hops he
    | jmp a => exact onRom.jmp_cycleStep hcfg hops he
    | pub => exact pub_cycleStep hcfg hops he
    | xfer c discard w k =>
      exact onRom.cycleStep_of_passed hcfg hops he (by cases discard <;> cases w <;> simp [writtenBy]) (by simp) fun _ => rfl
    | chk w | nrm w =>
      exact onRom.cycleStep_of_passed hcfg hops he (by cases w <;> simp [writtenBy]) (by simp) fun _ => rfl
    | wait d | led | go =>
      exact onRom.cycleStep_of_passed hcfg hops he (by simp [writtenBy]) (by simp) fun _ => rfl

/-- R695: a run's selections and publications, with those it has left, are whole cycles after those it had left at its start. -/
theorem Running.cycleEvents_append_cycleLeft (hcfg : configOk cfg = true) (inputs : List Inputs) :
    ∀ s, Running cfg s → ∃ k left, cycleEvents (pinTrace inputs s) ++ left
      = s.cycleLeft cfg ++ (List.replicate k (oneCycle cfg.n)).flatten := by
  induction inputs with
  | nil => exact fun s _ => ⟨0, s.cycleLeft cfg, by simp [pinTrace, timedTrace, cycleEvents]⟩
  | cons inp rest ih =>
    intro s hs
    cases h : sequencerStep s with
    | next t =>
      obtain ⟨k, left, hrest⟩ := ih _ (hs.next h inp)
      rw [pinTrace_cons h, cycleEvents_append]
      obtain hstep | ⟨hdone, hnone, hcycle⟩ := hs.cycleStep hcfg h
      · refine ⟨k, left, ?_⟩
        rw [List.append_assoc, hrest, cycleLeft_drive, ← List.append_assoc, hstep]
      · refine ⟨k + 1, left, ?_⟩
        rw [hnone, List.nil_append, hrest, cycleLeft_drive, hcycle, hdone]
        simp [List.replicate_succ]
    | fault f => exact ⟨0, s.cycleLeft cfg, by simp [pinTrace, timedTrace, h, eventsFrom, cycleEvents]⟩
    | refused r => exact ⟨0, s.cycleLeft cfg, by simp [pinTrace, timedTrace, h, eventsFrom, cycleEvents]⟩

end Sys2Proof.Machine
end

section
/-!
PROOFS. The obligation on the order of the selections (R695).
-/

namespace Sys2Proof.Proofs

open Sys2Proof Sys2Proof.Machine

/-- Settles O53: at power-up the zero-set list and one cycle are left, every step makes the next event that is left, and each JMP adds
one cycle. -/
theorem cyclesSelectChannelsInOrder : Obligations.CyclesSelectChannelsInOrder := by
  intro cfg inp inputs hcfg
  obtain ⟨k, left, htrace⟩ := (running_poweredUp cfg inp).cycleEvents_append_cycleLeft hcfg inputs
  refine ⟨k + 1, left, ?_⟩
  rw [htrace, cycleLeft_poweredUp hcfg, List.replicate_succ, List.flatten_cons, List.append_assoc]

end Sys2Proof.Proofs
end

section
/-!
SUPPORT. The bits that an exchange has latched (R454, R455), and the events of a step that moves no select line and no clock edge.
-/

namespace Sys2Proof.Machine

open Sys2Proof

variable {cfg : Config} {i : Instr} {s t : State}

/-! ### The bits of bytes and words -/

theorem samples_append (tr tr' : List PinEvent) : samples (tr ++ tr') = samples tr ++ samples tr' := List.filterMap_append

/-- R206: a word comes as its two bytes, the most significant one first. -/
theorem wordBits_append (b1 b0 : Byte) : wordBits (b1 ++ b0) = byteBits b1 ++ byteBits b0 := by
  have bit (n : Nat) : BitVec.getLsbD (b1 ++ b0 : Word) n = if n < 8 then b0.getLsbD n else b1.getLsbD (n - 8) :=
    BitVec.getLsbD_append.trans (by simp)
  rw [wordBits, show List.range 16 = List.range 8 ++ (List.range 8).map (8 + ·) from rfl, List.map_append, List.map_map]
  congr 1 <;> refine List.map_congr_left fun n hn => ?_ <;> have := List.mem_range.1 hn
  · rw [bit, if_neg (by omega), show 15 - n - 8 = 7 - n by omega]
  · rw [Function.comp_apply, bit, if_pos (by omega), show 15 - (8 + n) = 7 - n by omega]

/-- Latching a bit in its cell adds it to the bits latched in the cells before. -/
theorem take_byteBits_setBit (v : Byte) (b : Bool) {n : Nat} (hn : n < 8) :
    (byteBits (setBit v (cellBit n) b)).take (n + 1) = (byteBits v).take n ++ [b] := by
  have cell (m : Nat) (hm : m < 8) : (setBit v (cellBit n) b).getLsbD (7 - m) = if m = n then b else v.getLsbD (7 - m) := by
    rw [getLsbD_setBit _ _ _ _ (by unfold cellBit; omega) (by omega)]
    exact if_congr (by unfold cellBit; omega) rfl rfl
  have range : (List.range 8).take (n + 1) = List.range n ++ [n] := by
    rw [List.take_range, Nat.min_eq_left (by omega), List.range_succ]
  rw [byteBits, byteBits, ← List.map_take, ← List.map_take, range, List.take_range, Nat.min_eq_left hn.le, List.map_append]
  congr 1
  · refine List.map_congr_left fun m hm => ?_
    have := List.mem_range.1 hm
    rw [cell m (by omega), if_neg (by omega)]
  · simp [cell n hn]

/-! ### The bits latched in the exchange under way -/

/-- The bits that the exchange under way has latched in `RX`, in the order in which they came. -/
def State.bitsLatched (s : State) : List Bool := (byteBits (s.rx.getD Config.freeRx)).take s.bitsDriven

theorem bitsLatched_of_idle_bus (h : s.exchanging = false) : s.bitsLatched = [] := by
  rw [State.bitsLatched, bitsDriven_of_idle_bus h, List.take_zero]

theorem bitsLatched_clockRise (x : Byte) (hc : s.sclk = false) (h8 : s.fallsDone < 8) :
    (s.clockRise x s.fallsDone).bitsLatched = s.bitsLatched ++ [s.miso] := by
  have driven : s.bitsDriven = s.fallsDone := by simp [State.bitsDriven, hc]
  have driven' : (s.clockRise x s.fallsDone).bitsDriven = s.fallsDone + 1 := by
    rw [State.bitsDriven, fallsDone_of_sclk rfl]
    rfl
  rw [State.bitsLatched, State.bitsLatched, driven, driven']
  exact take_byteBits_setBit _ _ h8

theorem bitsLatched_clockFall (hc : s.sclk = true) (h7 : s.bitcnt < 7) : s.clockFall.bitsLatched = s.bitsLatched := by
  have driven : s.clockFall.bitsDriven = s.bitsDriven := by
    rw [State.bitsDriven, State.bitsDriven, fallsDone_of_sclk hc, hc, State.fallsDone, if_pos (s.exchanging_clockFall h7)]
    rfl
  rw [State.bitsLatched, State.bitsLatched, driven]
  rfl

/-- Before its last falling edge an exchange has latched the whole byte. -/
theorem bitsLatched_of_last_high_half {b : Byte} (hc : s.sclk = true) (h7 : s.bitcnt = 7) (hrx : s.rx = some b) :
    s.bitsLatched = byteBits b := by
  have driven : s.bitsDriven = 8 := by
    rw [State.bitsDriven, fallsDone_of_sclk hc, hc, h7]
    rfl
  rw [State.bitsLatched, driven, hrx]
  exact List.take_of_length_le (by simp [byteBits])

/-- An XFER that stores its byte latches one more bit, or none, or has latched the whole of the byte that it stores. -/
theorem Running.xfer_latches {c : Command} {w : WordSel} {k : ByteSel} (hs : Running cfg s)
    (hop : currentOp s = some (.xfer c false w k)) (he : exec (.xfer c false w k) s = .next t) :
    (t.ahead cfg = s.ahead cfg ∧ OnlyWrites [.sclk, .bitcnt, .tx, .rx, .mosi, .fault] s t
        ∧ t.bitsLatched = s.bitsLatched ++ samples ((stepEvents s t).map Prod.snd))
      ∨ (∃ b, t = s.completeXfer false w k b ∧ t.bitsLatched = [] ∧ s.bitsLatched = byteBits b
        ∧ samples ((stepEvents s t).map Prod.snd) = []) := by
  have bus : BusOnly s t := busOnly_of_exec hop he (.inr ⟨c, false, w, k, rfl⟩)
  obtain ⟨e, rfl⟩ | ⟨hc, h8, rfl⟩ | ⟨hc, h7, rfl⟩ | ⟨hc, h7, -⟩ := hs.xfer_step hop he
  · refine .inl ⟨rfl, OnlyWrites.mono (raise_frame s e) (by simp), ?_⟩
    rw [bus.stepEvents_of_no_edge rfl]
    exact (List.append_nil _).symm
  · refine .inl ⟨rfl, OnlyWrites.mono (clockRise_frame s _ _) (by simp), ?_⟩
    rw [bus.stepEvents_of_rise hc rfl, bitsLatched_clockRise _ hc h8]
    rfl
  · refine .inl ⟨rfl, OnlyWrites.mono (clockFall_frame s) (by simp), ?_⟩
    rw [bus.stepEvents_of_fall hc rfl, bitsLatched_clockFall hc h7]
    exact (List.append_nil _).symm
  · obtain ⟨exchange, -⟩ := (holdsOwned_iff s).1 hs.holds
    obtain ⟨-, -, -, -, -, -, -, -, -, hrx⟩ := exchange (s.exchanging_of_sclk hc)
    obtain ⟨b, hrx⟩ := Option.isSome_iff_exists.1 hrx
    rw [exec_xfer_of_last_high_half hc h7 hrx] at he
    cases he
    obtain ⟨low, count⟩ := completeXfer_clock s false w k b
    have idle : (s.completeXfer false w k b).exchanging = false := by
      rw [State.exchanging, low, count, h7]
      rfl
    refine .inr ⟨b, rfl, bitsLatched_of_idle_bus idle, bitsLatched_of_last_high_half hc h7 hrx, ?_⟩
    rw [bus.stepEvents_of_fall hc low]
    rfl

/-! ### Events that a step does not make -/

/-- Such a trace selects, deselects, samples and publishes nothing. -/
def LedOnly (tr : List PinEvent) : Prop := ∀ e ∈ tr, ∃ j b, e = .led j b

theorem LedOnly.samples_eq_nil {tr : List PinEvent} (h : LedOnly tr) : samples tr = [] := by
  refine List.filterMap_eq_nil_iff.2 fun e he => ?_
  obtain ⟨j, b, rfl⟩ := h e he
  rfl

theorem ledOnly_stepEvents (hcs : t.cs = s.cs) (hsclk : t.sclk = s.sclk) (hreq : t.pubReq = s.pubReq) :
    LedOnly ((stepEvents s t).map Prod.snd) := by
  intro e he
  simp only [stepEvents, endEvents, hsclk, hreq, selectEvents_of_cs_eq hcs] at he
  cases s.sclk <;> simp at he <;> exact ⟨_, _, he.2⟩

theorem ledOnly_stepEvents_raise (s : State) (c : FaultCode) : LedOnly ((stepEvents s (s.raise c)).map Prod.snd) :=
  ledOnly_stepEvents (s.raise_cs c) (s.raise_sclk c) (s.raise_pubReq c)

theorem csOn_not_mem_stepEvents (h : sequencerStep s = .next t) (hop : currentOp s ≠ some .csa) (n : Nat) :
    .csOn n ∉ (stepEvents s t).map Prod.snd := by
  intro hmem
  obtain ⟨x, hx, hn⟩ := List.mem_map.1 hmem
  obtain ⟨hcsa, -⟩ := currentOp_of_csOn h hx hn
  exact hop hcsa

theorem csOff_not_mem_stepEvents (h : sequencerStep s = .next t) (hop : currentOp s ≠ some .csd) (n : Nat) :
    .csOff n ∉ (stepEvents s t).map Prod.snd := by
  intro hmem
  obtain ⟨x, hx, hn⟩ := List.mem_map.1 hmem
  obtain ⟨hcsd, -⟩ := currentOp_of_csOff h hx hn
  exact hop hcsd

theorem pubReq_not_mem_stepEvents (hreq : t.pubReq = s.pubReq) (b : Bool) : .pubReq b ∉ (stepEvents s t).map Prod.snd := by
  intro hmem
  obtain ⟨x, hx, hb⟩ := List.mem_map.1 hmem
  obtain ⟨-, b', hb'⟩ | ⟨-, he⟩ := mem_stepEvents_cases hx
  · simp [hb] at hb'
  · rw [hb] at he
    simp only [endEvents, List.mem_append, hreq, or_assoc] at he
    obtain hrise | hfall | hselect | hled | hhandshake := he
    · split at hrise <;> simp at hrise
    · split at hfall <;> simp at hfall
    · obtain ⟨n, -, hn⟩ := List.mem_filterMap.1 hselect
      split at hn
      · simp at hn
      · split at hn <;> simp at hn
    · split at hled <;> simp at hled
    · simp at hhandshake

end Sys2Proof.Machine
end

section
/-!
SUPPORT. A reading of one channel (R471, R472, R551, R603): what has been received, checked, shown and stored of it, micro-op by
micro-op, and what it leaves when it is complete.
-/

namespace Sys2Proof.Machine

open Sys2Proof

variable {cfg : Config} {i : Instr} {s t : State} {cycle tr body : List PinEvent} {done left ops : List Instr} {n j : Nat}

/-! ### Selections in a trace -/

/-- `body` is what the trace holds since the `CS_ON(n)` of a selection that has not ended. -/
def OpenSelection (n : Nat) (cycle body : List PinEvent) : Prop :=
  ∃ before, cycle = before ++ .csOn n :: body ∧ .csOff n ∉ body ∧ .csOn n ∉ body

theorem openSelection_csOn (n : Nat) (cycle : List PinEvent) : OpenSelection n (cycle ++ [.csOn n]) [] :=
  ⟨cycle, rfl, List.not_mem_nil, List.not_mem_nil⟩

theorem OpenSelection.append (h : OpenSelection n cycle body) (hoff : .csOff n ∉ tr) (hon : .csOn n ∉ tr) :
    OpenSelection n (cycle ++ tr) (body ++ tr) := by
  obtain ⟨before, rfl, hoff', hon'⟩ := h
  exact ⟨before, by simp, by simp [hoff, hoff'], by simp [hon, hon']⟩

theorem OpenSelection.csOff (h : OpenSelection n cycle body) : LastSelection n (cycle ++ [.csOff n]) body := by
  obtain ⟨before, rfl, hoff, hon⟩ := h
  exact ⟨before, [], by simp, hoff, hon, List.not_mem_nil⟩

theorem lastSelection_append (h : LastSelection n cycle body) (hon : .csOn n ∉ tr) : LastSelection n (cycle ++ tr) body := by
  obtain ⟨before, after, rfl, hoff, hbody, hafter⟩ := h
  exact ⟨before, after ++ tr, by simp, hoff, hbody, by simp [hon, hafter]⟩

/-! ### The reading of a word at a channel -/

/-- `POS[n]` or `TURN[n]`, the reading of word `w`. -/
def State.readingAt (s : State) (w : WordSel) (n : Nat) : Option Word :=
  match w with
  | .position => s.posAt n
  | .turn => s.turnAt n

/-- `RAWP[n]` or `RAWT[n]`, the raw word behind it. -/
def State.rawAt (s : State) (w : WordSel) (n : Nat) : Option Word :=
  match w with
  | .position => s.rawpAt n
  | .turn => s.rawtAt n

theorem readings_putReading_self (hs : Shaped s) (hn : n < s.cfg.n) (w : WordSel) (r x : Word) :
    (s.putReading w n r x).readingAt w n = some r ∧ (s.putReading w n r x).rawAt w n = some x := by
  obtain ⟨-, -, hpos, hturn, hrawp, hrawt, -⟩ := hs
  cases w with
  | position => exact s.readingsAt_putReading_position_self n r x (hpos ▸ hn) (hrawp ▸ hn)
  | turn => exact s.readingsAt_putReading_turn_self n r x (hturn ▸ hn) (hrawt ▸ hn)

theorem readings_putReading_other {w w' : WordSel} (hw : w' ≠ w) (s : State) (n : Nat) (r x : Word) :
    (s.putReading w n r x).readingAt w' n = s.readingAt w' n ∧ (s.putReading w n r x).rawAt w' n = s.rawAt w' n := by
  cases w with
  | position =>
    cases w' with
    | position => exact absurd rfl hw
    | turn => exact ⟨rfl, rfl⟩
  | turn =>
    cases w' with
    | position => exact ⟨rfl, rfl⟩
    | turn => exact absurd rfl hw

/-! ### What has been done of a reading -/

/-- The byte cells that these micro-ops store in, in order (R461). -/
def destinations (ops : List Instr) : List (WordSel × ByteSel) :=
  ops.filterMap fun i =>
    match i with
    | .xfer _ false w k => some (w, k)
    | _ => none

theorem destinations_append (ops ops' : List Instr) : destinations (ops ++ ops') = destinations ops ++ destinations ops' :=
  List.filterMap_append

/-- The bits of a byte cell, none of them where it is unwritten. -/
def State.cellBits (s : State) (d : WordSel × ByteSel) : List Bool := ((s.byteAt d.1 d.2).map byteBits).getD []

/-- The bits received so far, of a reading of which `done` is done. -/
def State.bitsReceived (s : State) (done : List Instr) : List Bool := (destinations done).flatMap s.cellBits ++ s.bitsLatched

theorem bitsReceived_of_idle_bus (h : s.exchanging = false) (done : List Instr) :
    s.bitsReceived done = (destinations done).flatMap s.cellBits := by
  rw [State.bitsReceived, bitsLatched_of_idle_bus h, List.append_nil]

/-- The fields that what has been received is read from. -/
def receiverFields : List Field := [.wbPosition, .wbTurn, .rx, .sclk, .bitcnt]

theorem received_eq_of_same (h : ∀ f ∈ receiverFields, f.same s t) :
    t.bitsReceived done = s.bitsReceived done ∧ t.word = s.word := by
  simp only [receiverFields, List.forall_mem_cons, Field.same] at h
  obtain ⟨wbPosition, wbTurn, rx, sclk, bitcnt, -⟩ := h
  have bytes : t.byteAt = s.byteAt := by
    funext w k
    cases w <;> cases k <;> simp only [State.byteAt, wbPosition, wbTurn]
  have cells : t.cellBits = s.cellBits := by
    funext d
    rw [State.cellBits, State.cellBits, bytes]
  have exchanging : t.exchanging = s.exchanging := by rw [State.exchanging, State.exchanging, sclk, bitcnt]
  have driven : t.bitsDriven = s.bitsDriven := by
    rw [State.bitsDriven, State.bitsDriven, State.fallsDone, State.fallsDone, exchanging, sclk, bitcnt]
  have latched : t.bitsLatched = s.bitsLatched := by rw [State.bitsLatched, State.bitsLatched, rx, driven]
  refine ⟨by rw [State.bitsReceived, State.bitsReceived, cells, latched], ?_⟩
  funext w
  rw [State.word, State.word, bytes]

/-- The bits sampled in the current channel's selection, which has ended if its CSD is done, are those received. -/
def Sampled (done : List Instr) (cycle : List PinEvent) (s : State) : Prop :=
  ∃ body, samples body = s.bitsReceived done ∧ (.csd ∉ done → OpenSelection s.channel cycle body)
    ∧ (.csd ∈ done → LastSelection s.channel cycle body)

/-- Of a reading of the current channel `done` is done: its bits are received, each checked word has its parity as its flag, the
indicator shows the flags, and each normalized word is stored under its flag. -/
structure ReadingState (done : List Instr) (cycle : List PinEvent) (s : State) : Prop where
  sampled : Sampled done cycle s
  checked : ∀ w, .chk w ∈ done → ∃ x, s.word w = some x ∧ s.validity w = some (parityValid x)
  shown : .led ∈ done → s.validAt s.channel = some (s.lit s.channel) ∧ s.indicatorValue = some (s.lit s.channel)
  stored : ∀ w, .nrm w ∈ done → ∃ x v, s.word w = some x ∧ s.validity w = some v
    ∧ s.readingAt w s.channel = some (normalize x v) ∧ s.rawAt w s.channel = some x

theorem readingState_nil (idle : s.exchanging = false) (h : OpenSelection s.channel cycle []) : ReadingState [] cycle s where
  sampled := ⟨[], by rw [bitsReceived_of_idle_bus idle]; rfl, fun _ => h, by simp⟩
  checked := by simp
  shown := by simp
  stored := by simp

theorem Sampled.append_ledOnly (h : Sampled done cycle s) (htr : LedOnly tr) : Sampled done (cycle ++ tr) s := by
  obtain ⟨body, hsamples, hopen, hclosed⟩ := h
  have hon : .csOn s.channel ∉ tr := fun hmem => by simpa using htr _ hmem
  have hoff : .csOff s.channel ∉ tr := fun hmem => by simpa using htr _ hmem
  by_cases hcsd : .csd ∈ done
  · exact ⟨body, hsamples, fun hn => absurd hcsd hn, fun _ => lastSelection_append (hclosed hcsd) hon⟩
  · refine ⟨body ++ tr, ?_, fun _ => (hopen hcsd).append hoff hon, fun hmem => absurd hmem hcsd⟩
    rw [samples_append, hsamples, htr.samples_eq_nil, List.append_nil]

theorem ReadingState.append_ledOnly (h : ReadingState done cycle s) (htr : LedOnly tr) : ReadingState done (cycle ++ tr) s :=
  ⟨h.sampled.append_ledOnly htr, h.checked, h.shown, h.stored⟩

/-- The micro-ops that come before a selection ends (R471, R472). -/
def receives : Instr → Bool
  | .wait _ => true
  | .xfer _ _ _ _ => true
  | _ => false

/-- What the order of a reading's micro-ops gives: a byte is stored once and before the word's check, a word is checked before the
indicator shows its flag and before it is normalized, and the selection ends once. -/
def inReadingOrder (done : List Instr) : Instr → Bool
  | .wait _ => true
  | .xfer _ discard w k =>
    !discard && decide ((w, k) ∉ destinations done) && done.all receives
  | .csd => decide (.csd ∉ done)
  | .chk w => decide (.led ∉ done ∧ .nrm w ∉ done)
  | .led => true
  | .nrm _ => true
  | _ => false

/-- Each micro-op of a reading, and those before it. -/
theorem inReadingOrder_readingOps (mode : Mode) :
    ∀ n < 16, ((readingOps mode)[n]?.map fun i => inReadingOrder ((readingOps mode).take n) i) ≠ some false := by
  cases mode <;> decide

theorem inReadingOrder_of_split {mode : Mode} (h : done ++ i :: left = readingOps mode) : inReadingOrder done i = true := by
  have length : (readingOps mode).length ≤ 16 := by cases mode <;> decide
  have order := inReadingOrder_readingOps mode done.length (by rw [← h] at length; simp at length; omega)
  rw [← h] at order
  simpa using order

/-! ### The steps of a reading -/

/-- A micro-op that neither receives nor ends the selection leaves the bits received as they are. -/
theorem Sampled.pass (h : Sampled done cycle s) (he : exec i s = .next t) (hcsd : i ≠ .csd) (hi : destinations [i] = [])
    (hf : ∀ f ∈ .ch :: receiverFields, f ∉ writtenBy i) : Sampled (done ++ [i]) cycle t := by
  obtain ⟨hch, hreceiver⟩ := List.forall_mem_cons.1 hf
  obtain ⟨body, hsamples, hopen, hclosed⟩ := h
  obtain ⟨same, -⟩ := received_eq_of_same (done := done) fun f hf => exec_frame he f (hreceiver f hf)
  have channel : t.channel = s.channel := congrArg BitVec.toNat (exec_frame he .ch hch)
  have more : t.bitsReceived (done ++ [i]) = t.bitsReceived done := by
    rw [State.bitsReceived, State.bitsReceived, destinations_append, hi, List.append_nil]
  rw [Sampled, channel, more, same]
  exact ⟨body, hsamples, by simpa [hcsd.symm] using hopen, by simpa [hcsd.symm] using hclosed⟩

/-- A step of a reading holds, or does the next of its micro-ops. -/
def ReadingStep (cfg : Config) (done : List Instr) (i : Instr) (cycle : List PinEvent) (s t : State) : Prop :=
  (t.ahead cfg = s.ahead cfg ∧ ReadingState done cycle t) ∨ (MovesOn s t ∧ ReadingState (done ++ [i]) cycle t)

theorem readingStep_raise (h : ReadingState done cycle s) (c : FaultCode) : ReadingStep cfg done i cycle s (s.raise c) :=
  .inl ⟨rfl, h.sampled, h.checked, h.shown, h.stored⟩

theorem ReadingState.wait_step {d : Delay} (h : ReadingState done cycle s) (he : exec (.wait d) s = .next t) :
    ReadingStep cfg done (.wait d) cycle s t := by
  have sampled := h.sampled.pass he (by simp) rfl (by simp [writtenBy, receiverFields])
  obtain ⟨-, rfl⟩ | ⟨-, rfl⟩ := exec_wait_cases he
  · exact .inr ⟨⟨rfl, rfl⟩, sampled, by simpa using h.checked, by simpa using h.shown,
      fun w hw => h.stored w (by simpa using hw)⟩
  · exact .inl ⟨rfl, h.sampled, h.checked, h.shown, h.stored⟩

/-- CSD ends the selection, with all that was received of it. -/
theorem ReadingState.csd_step (h : ReadingState done cycle s) (horder : .csd ∉ done) (hop : currentOp s = some .csd)
    (hstep : sequencerStep s = .next t) :
    ReadingStep cfg done .csd (cycle ++ (stepEvents s t).map Prod.snd) s t := by
  obtain ⟨c, rfl⟩ | ⟨rfl, hevents⟩ := Machine.csd_step hop hstep
  · rw [stepEvents_raise hop (by simp) c, List.map_nil, List.append_nil]
    exact readingStep_raise h c
  · obtain ⟨body, hsamples, hopen, -⟩ := h.sampled
    have sampled : Sampled (done ++ [.csd]) (cycle ++ [.csOff s.channel]) (s.putCs s.channel false).advance := by
      refine ⟨body, ?_, by simp, fun _ => (hopen horder).csOff⟩
      rw [hsamples, State.bitsReceived, State.bitsReceived, destinations_append]
      simp [destinations]
      rfl
    rw [hevents]
    exact .inr ⟨⟨rfl, rfl⟩, sampled, by simpa using h.checked, by simpa using h.shown,
      fun w hw => h.stored w (by simpa using hw)⟩

/-- CHK writes the flag of a word that is complete. -/
theorem ReadingState.chk_step {w : WordSel} (h : ReadingState done cycle s) (hled : .led ∉ done) (hnrm : .nrm w ∉ done)
    (he : exec (.chk w) s = .next t) : ReadingStep cfg done (.chk w) cycle s t := by
  have sampled := h.sampled.pass he (by simp) rfl (by cases w <;> simp [writtenBy, receiverFields])
  obtain ⟨-, rfl⟩ | ⟨-, -, rfl⟩ | ⟨x, -, hx, rfl⟩ := exec_chk_cases he
  · exact readingStep_raise h _
  · exact readingStep_raise h _
  · have flag (w' : WordSel) : ((s.putValidity w (parityValid x)).advance).validity w'
        = if w' = w then some (parityValid x) else s.validity w' := s.validity_putValidity w w' _
    refine .inr ⟨⟨by simp, by simp⟩, sampled, fun w' hw' => ?_, fun hmem => ?_, fun w' hw' => ?_⟩
    · rw [flag]
      by_cases heq : w' = w
      · subst heq
        exact ⟨x, by simpa using hx, if_pos rfl⟩
      · rw [if_neg heq]
        simpa using h.checked w' (by simpa [heq] using hw')
    · exact absurd (by simpa using hmem) hled
    · have hmem : .nrm w' ∈ done := by simpa using hw'
      have heq : w' ≠ w := by
        rintro rfl
        exact hnrm hmem
      rw [flag, if_neg heq]
      cases w' <;> simpa [State.readingAt, State.rawAt] using h.stored _ hmem

/-- LED shows the flags of the checked words. -/
theorem ReadingState.led_step (h : ReadingState done cycle s) (hs : Shaped s) (he : exec .led s = .next t) :
    ReadingStep cfg done .led cycle s t := by
  have sampled := h.sampled.pass he (by simp) rfl (by simp [writtenBy, receiverFields])
  obtain ⟨-, rfl⟩ | ⟨-, -, rfl⟩ | ⟨b, hch, hb, rfl⟩ := exec_led_cases he
  · exact readingStep_raise h _
  · exact readingStep_raise h _
  · obtain ⟨-, hled, -, -, -, -, hvalid, -⟩ := hs
    have inRange := s.channelOk_iff.1 hch
    have lit : ((s.putIndicator s.channel b).advance).lit s.channel = b :=
      s.lit_putIndicator_self s.channel b (hled ▸ inRange)
    have valid : ((s.putIndicator s.channel b).advance).validAt s.channel = some b :=
      s.validAt_putIndicator_self s.channel b (hvalid ▸ inRange)
    refine .inr ⟨⟨rfl, rfl⟩, sampled, by simpa using h.checked, fun _ => ?_, fun w hw => ?_⟩
    · exact ⟨valid.trans (congrArg some lit.symm), hb.trans (congrArg some lit.symm)⟩
    · exact h.stored w (by simpa using hw)

/-- NRM stores the reading of a word under its flag. -/
theorem ReadingState.nrm_step {w : WordSel} (h : ReadingState done cycle s) (hs : Shaped s) (he : exec (.nrm w) s = .next t) :
    ReadingStep cfg done (.nrm w) cycle s t := by
  have sampled := h.sampled.pass he (by simp) rfl (by cases w <;> simp [writtenBy, receiverFields])
  obtain ⟨-, rfl⟩ | ⟨-, -, rfl⟩ | ⟨-, -, -, rfl⟩ | ⟨x, v, hch, -, hx, hv, rfl⟩ := exec_nrm_cases he
  · exact readingStep_raise h _
  · exact readingStep_raise h _
  · exact readingStep_raise h _
  · refine .inr ⟨⟨by simp, by simp⟩, sampled, by simpa using h.checked, by simpa using h.shown, fun w' hw' => ?_⟩
    rw [State.advance_word, State.advance_validity, State.advance_channel, State.putReading_word, State.putReading_validity,
      State.putReading_channel]
    by_cases heq : w' = w
    · subst heq
      obtain ⟨reading, raw⟩ := readings_putReading_self hs (s.channelOk_iff.1 hch) w' (normalize x v) x
      exact ⟨x, v, hx, hv, reading, raw⟩
    · obtain ⟨reading, raw⟩ := readings_putReading_other heq s s.channel (normalize x v) x
      obtain ⟨x', v', hx', hv', reading', raw'⟩ := h.stored w' (by simpa [heq] using hw')
      exact ⟨x', v', hx', hv', reading.trans reading', raw.trans raw'⟩

/-- While bytes are received nothing is checked, shown or stored. -/
theorem Sampled.readingState (h : Sampled done cycle s) (hall : done.all receives = true) : ReadingState done cycle s := by
  rw [List.all_eq_true] at hall
  exact ⟨h, fun w hw => absurd (hall _ hw) (by simp [receives]), fun hw => absurd (hall _ hw) (by simp [receives]),
    fun w hw => absurd (hall _ hw) (by simp [receives])⟩

/-- XFER latches the next bit, or stores the byte that it has latched. -/
theorem Running.xfer_readingStep {c : Command} {w : WordSel} {k : ByteSel} (hs : Running cfg s)
    (hop : currentOp s = some (.xfer c false w k)) (hstep : sequencerStep s = .next t) (he : exec (.xfer c false w k) s = .next t)
    (hcell : (w, k) ∉ destinations done) (hall : done.all receives = true) (h : ReadingState done cycle s) :
    ReadingStep cfg done (.xfer c false w k) (cycle ++ (stepEvents s t).map Prod.snd) s t := by
  have hcsd : .csd ∉ done := fun hmem => by simpa [receives] using List.all_eq_true.1 hall _ hmem
  have channel : t.channel = s.channel := congrArg BitVec.toNat (exec_frame he .ch (by cases w <;> simp [writtenBy]))
  obtain ⟨body, hsamples, hopen, -⟩ := h.sampled
  have opened : OpenSelection s.channel (cycle ++ (stepEvents s t).map Prod.snd) (body ++ (stepEvents s t).map Prod.snd) :=
    (hopen hcsd).append (csOff_not_mem_stepEvents hstep (by simp [hop]) _) (csOn_not_mem_stepEvents hstep (by simp [hop]) _)
  obtain ⟨hahead, hframe, hlatched⟩ | ⟨b, rfl, hlatched, hbyte, hnone⟩ := hs.xfer_latches hop he
  · have bytes : t.cellBits = s.cellBits := by
      have position : t.wbPosition = s.wbPosition := hframe .wbPosition (by simp)
      have turn : t.wbTurn = s.wbTurn := hframe .wbTurn (by simp)
      funext ⟨w', k'⟩
      cases w' <;> cases k' <;> simp only [State.cellBits, State.byteAt, position, turn]
    have sampled : Sampled done (cycle ++ (stepEvents s t).map Prod.snd) t := by
      refine ⟨_, ?_, fun _ => channel ▸ opened, fun hmem => absurd hmem hcsd⟩
      rw [samples_append, hsamples, State.bitsReceived, State.bitsReceived, bytes, hlatched, List.append_assoc]
    exact .inl ⟨hahead, sampled.readingState hall⟩
  · have earlier : (destinations done).flatMap (s.completeXfer false w k b).cellBits = (destinations done).flatMap s.cellBits := by
      refine List.flatMap_congr fun d hd => ?_
      have other : ¬ (false = false ∧ d.1 = w ∧ d.2 = k) := by
        rintro ⟨-, rfl, rfl⟩
        exact hcell hd
      rw [State.cellBits, State.cellBits, completeXfer_byteAt, if_neg other]
    have stored : (s.completeXfer false w k b).cellBits (w, k) = byteBits b := by
      rw [State.cellBits, completeXfer_byteAt, if_pos ⟨rfl, rfl, rfl⟩]
      rfl
    have sampled : Sampled (done ++ [.xfer c false w k]) (cycle ++ (stepEvents s (s.completeXfer false w k b)).map Prod.snd)
        (s.completeXfer false w k b) := by
      refine ⟨_, ?_, fun _ => channel ▸ opened, fun hmem => absurd hmem (by simpa using hcsd)⟩
      rw [samples_append, hsamples, hnone, List.append_nil, State.bitsReceived, State.bitsReceived, hlatched, hbyte,
        destinations_append, List.flatMap_append, earlier, List.append_nil]
      exact congrArg (_ ++ ·) (by simpa [destinations] using stored.symm)
    exact .inr ⟨completeXfer_movesOn s false w k b, sampled.readingState (by simp [hall, receives])⟩

/-- A micro-op of a reading takes it one step further. -/
theorem Running.readingStep {mode : Mode} (hs : Running cfg s) (hsplit : done ++ i :: left = readingOps mode)
    (hop : currentOp s = some i) (hstep : sequencerStep s = .next t) (he : exec i s = .next t) (h : ReadingState done cycle s) :
    ReadingStep cfg done i (cycle ++ (stepEvents s t).map Prod.snd) s t := by
  have order := inReadingOrder_of_split hsplit
  have quiet (hx : ∀ c discard w k, i ≠ .xfer c discard w k) (hcsa : i ≠ .csa) (hcsd : i ≠ .csd) (hpub : i ≠ .pub) :
      ReadingState done (cycle ++ (stepEvents s t).map Prod.snd) s := by
    obtain ⟨hsclk, -⟩ := exec_clock_eq he hx
    obtain ⟨hreq, -⟩ := exec_handshake_eq he hpub
    exact h.append_ledOnly (ledOnly_stepEvents (exec_cs_eq he hcsa hcsd) hsclk hreq)
  cases i with
  | wait d => exact (quiet (by simp) (by simp) (by simp) (by simp)).wait_step he
  | xfer c discard w k =>
    simp only [inReadingOrder, Bool.and_eq_true, Bool.not_eq_true', decide_eq_true_eq] at order
    obtain ⟨⟨rfl, hcell⟩, hall⟩ := order
    exact hs.xfer_readingStep hop hstep he hcell hall h
  | csd => exact h.csd_step (by simpa [inReadingOrder] using order) hop hstep
  | chk w =>
    obtain ⟨hled, hnrm⟩ : .led ∉ done ∧ .nrm w ∉ done := by simpa [inReadingOrder] using order
    exact (quiet (by simp) (by simp) (by simp) (by simp)).chk_step hled hnrm he
  | led => exact (quiet (by simp) (by simp) (by simp) (by simp)).led_step hs.shaped he
  | nrm w => exact (quiet (by simp) (by simp) (by simp) (by simp)).nrm_step hs.shaped he
  | _ => simp [inReadingOrder] at order

/-! ### A complete reading (R696) -/

/-- What R696 says of the entries of channel `n`, with the selections of the trace `cycle`. -/
def Reported (cfg : Config) (cycle : List PinEvent) (n : Nat) (s : State) : Prop :=
  ∃ x body, s.rawpAt n = some x ∧ LastSelection n cycle body
    ∧ s.posAt n = some (normalize x (parityValid x)) ∧ s.validAt n = some (s.lit n)
    ∧ ((cfg.mode = .singleTurn ∨ cfg.ledPolicy = .positionOnly) → s.lit n = parityValid x)
    ∧ (cfg.mode = .singleTurn → samples body = wordBits x)
    ∧ (cfg.mode = .multiTurn → ∃ y, s.rawtAt n = some y ∧ samples body = wordBits x ++ wordBits y
      ∧ s.turnAt n = some (normalize y (parityValid y))
      ∧ (cfg.ledPolicy = .both → s.lit n = (parityValid x && parityValid y)))

/-- A channel's entries stay reported while it is not selected again and they are not written. -/
theorem Reported.next (h : Reported cfg cycle j s) (hsame : SameEntries j s t) (hon : .csOn j ∉ tr) :
    Reported cfg (cycle ++ tr) j t := by
  obtain ⟨-, lit, valid, pos, turn, rawp, rawt⟩ := hsame
  obtain ⟨x, body, hraw, hlast, rest⟩ := h
  rw [Reported, lit, valid, pos, turn, rawp, rawt]
  exact ⟨x, body, hraw, lastSelection_append hlast hon, rest⟩

/-- A word that is checked and stored is complete, and is stored under its own parity. -/
theorem ReadingState.word_of_done {w : WordSel} (h : ReadingState done cycle s) (hchk : .chk w ∈ done) (hnrm : .nrm w ∈ done) :
    ∃ x, s.cellBits (w, .hi) ++ s.cellBits (w, .lo) = wordBits x ∧ s.validity w = some (parityValid x)
      ∧ s.readingAt w s.channel = some (normalize x (parityValid x)) ∧ s.rawAt w s.channel = some x := by
  obtain ⟨x, hx, hflag⟩ := h.checked w hchk
  obtain ⟨x', v, hx', hflag', reading, raw⟩ := h.stored w hnrm
  cases hx.symm.trans hx'
  cases hflag.symm.trans hflag'
  obtain ⟨b1, b0, hhi, hlo, rfl⟩ := (s.word_eq_some_iff w x).1 hx
  refine ⟨_, ?_, hflag, reading, raw⟩
  rw [State.cellBits, State.cellBits, hhi, hlo, wordBits_append]
  rfl

/-- A reading that is done has reported its channel. -/
theorem ReadingState.reported (hcfg : s.cfg = cfg) (idle : s.exchanging = false) (h : ReadingState (readingOps cfg.mode) cycle s) :
    Reported cfg cycle s.channel s := by
  subst hcfg
  obtain ⟨body, hsamples, -, hclosed⟩ := h.sampled
  obtain ⟨hvalid, hshown⟩ := h.shown (by cases s.cfg.mode <;> simp [readingOps])
  obtain ⟨x, hbits, hflag, hreading, hraw⟩ := h.word_of_done (w := .position) (by cases s.cfg.mode <;> simp [readingOps])
    (by cases s.cfg.mode <;> simp [readingOps])
  have hlast := hclosed (by cases s.cfg.mode <;> simp [readingOps])
  have hvalue := (State.indicatorValue_eq_some_iff hflag).1 hshown
  rw [bitsReceived_of_idle_bus idle] at hsamples
  refine ⟨x, body, hraw, hlast, hreading, hvalid, fun hpolicy => ?_, fun hmode => ?_, fun hmode => ?_⟩
  · rwa [if_neg (by rintro ⟨hmulti, hboth⟩; obtain h | h := hpolicy <;> simp_all)] at hvalue
  · rw [hsamples, hmode, ← hbits]
    simp [destinations, readingOps]
  · obtain ⟨y, hbits', hflag', hreading', hraw'⟩ := h.word_of_done (w := .turn) (by simp [readingOps, hmode])
      (by simp [readingOps, hmode])
    refine ⟨y, hraw', ?_, hreading', fun hboth => ?_⟩
    · rw [hsamples, hmode, ← hbits, ← hbits']
      simp [destinations, readingOps]
    · rw [if_pos ⟨hmode, hboth⟩] at hvalue
      obtain ⟨v, hv, hlit⟩ := hvalue
      rw [hlit, Option.some.inj (hv.symm.trans hflag')]

end Sys2Proof.Machine
end

section
/-!
SUPPORT. The cycles of a run of the built ROM (R695 to R697): where in a cycle it stands, and which channels it has reported since the
last publication.
-/

namespace Sys2Proof.Machine

open Sys2Proof

variable {cfg : Config} {i : Instr} {s t : State} {cycle tr : List PinEvent} {ops : List Instr}

/-! ### Where a run stands in its cycle -/

/-- The body from CSA on. -/
def channelOps (cfg : Config) : List Instr := .csa :: (readingOps cfg.mode ++ loopOps cfg)

/-- A micro-op that neither jumps nor publishes. -/
def Straight (i : Instr) : Prop := i ≠ .pub ∧ ∀ a, i ≠ .nxt a ∧ i ≠ .jmp a

theorem straight_of_mem_preamble {channels : List Nat} (h : i ∈ preambleOps channels ++ [.go]) : Straight i := by
  obtain ⟨c, -, hz⟩ | rfl : (∃ c ∈ channels, i ∈ zeroSetOps c) ∨ i = .go := by simpa [preambleOps] using h
  · simp only [zeroSetOps, List.mem_cons, List.not_mem_nil, or_false] at hz
    obtain rfl | rfl | rfl | rfl | rfl | rfl | rfl | rfl | rfl | rfl := hz <;> simp [Straight]
  · simp [Straight]

/-- Every channel before the current one is reported. -/
def EarlierReported (cfg : Config) (cycle : List PinEvent) (s : State) : Prop := ∀ j < s.channel, Reported cfg cycle j s

/-- Where a run stands since the last publication, and what it has reported: before CHS 0 (with the zero-set preamble, after
power-up); at the CSA of a channel; in a reading or at the NXT after it; at PUB; and after it. -/
inductive CycleStage (cfg : Config) (cycle : List PinEvent) (s : State) : Prop
  | preparing (before : List Instr) (ahead : s.ahead cfg = before ++ .chs 0 :: channelOps cfg) (straight : ∀ i ∈ before, Straight i)
  | selecting (ahead : s.ahead cfg = channelOps cfg) (earlier : EarlierReported cfg cycle s)
  | reading (done left : List Instr) (split : done ++ left = readingOps cfg.mode) (ahead : s.ahead cfg = left ++ loopOps cfg)
      (earlier : EarlierReported cfg cycle s) (current : ReadingState done cycle s)
  | publishing (ahead : s.ahead cfg = pubOps cfg) (all : ∀ j < cfg.n, Reported cfg cycle j s)
  | pausing (ahead : s.ahead cfg = (pubOps cfg).drop 1 ∨ s.ahead cfg = (pubOps cfg).drop 2)

theorem cycleStage_poweredUp (cfg : Config) (inp : Inputs) : CycleStage cfg [] (poweredUp cfg inp) := by
  refine .preparing (preambleOps cfg.zeroSetChannels ++ [.go]) ?_ fun i => straight_of_mem_preamble
  have start : (poweredUp cfg inp).ahead cfg = preambleOps cfg.zeroSetChannels ++ romBody cfg := rfl
  rw [start, romBody_eq]
  simp [channelOps]

/-- No part of it depends on `FAULT` or on what the environment drives. -/
theorem CycleStage.of_ports (h : CycleStage cfg cycle s) (miso mosi ack : Bool) (ticks : Nat) (fault : FaultSet) :
    CycleStage cfg cycle { s with miso := miso, mosi := mosi, pubAck := ack, extraTicks := ticks, fault := fault } := by
  cases h with
  | preparing before ahead straight => exact .preparing before ahead straight
  | selecting ahead earlier => exact .selecting ahead earlier
  | reading done left split ahead earlier current =>
    exact .reading done left split ahead earlier ⟨current.sampled, current.checked, current.shown, current.stored⟩
  | publishing ahead all => exact .publishing ahead all
  | pausing ahead => exact .pausing ahead

theorem CycleStage.drive (h : CycleStage cfg cycle s) (inp : Inputs) : CycleStage cfg cycle (s.drive inp) :=
  h.of_ports _ _ _ _ s.fault

theorem CycleStage.raise (h : CycleStage cfg cycle s) (c : FaultCode) : CycleStage cfg cycle (s.raise c) :=
  h.of_ports s.miso s.mosi s.pubAck s.extraTicks _

theorem Reported.append_ledOnly {j : Nat} (h : Reported cfg cycle j s) (htr : LedOnly tr) : Reported cfg (cycle ++ tr) j s :=
  h.next ⟨rfl, rfl, rfl, rfl, rfl, rfl, rfl⟩ fun hmem => by simpa using htr _ hmem

theorem CycleStage.append_ledOnly (h : CycleStage cfg cycle s) (htr : LedOnly tr) : CycleStage cfg (cycle ++ tr) s := by
  cases h with
  | preparing before ahead straight => exact .preparing before ahead straight
  | selecting ahead earlier => exact .selecting ahead fun j hj => (earlier j hj).append_ledOnly htr
  | reading done left split ahead earlier current =>
    exact .reading done left split ahead (fun j hj => (earlier j hj).append_ledOnly htr) (current.append_ledOnly htr)
  | publishing ahead all => exact .publishing ahead fun j hj => (all j hj).append_ledOnly htr
  | pausing ahead => exact .pausing ahead

/-- Only at PUB is PUB the micro-op ahead. -/
theorem CycleStage.publishing_of_pub (h : CycleStage cfg cycle s) (hops : s.ahead cfg = .pub :: ops) :
    s.ahead cfg = pubOps cfg ∧ ∀ j < cfg.n, Reported cfg cycle j s := by
  cases h with
  | preparing before ahead straight =>
    rw [hops] at ahead
    cases before with
    | nil => simp at ahead
    | cons i before =>
      obtain ⟨rfl, -⟩ := List.cons_eq_cons.1 ahead
      obtain ⟨hpub, -⟩ := straight _ List.mem_cons_self
      exact absurd rfl hpub
  | selecting ahead earlier => simp [hops, channelOps] at ahead
  | reading done left split ahead earlier current =>
    rw [hops] at ahead
    cases left with
    | nil => simp [loopOps] at ahead
    | cons i left =>
      obtain ⟨rfl, -⟩ := List.cons_eq_cons.1 ahead
      simpa [inReadingOrder] using inReadingOrder_of_split split
  | publishing ahead all => exact ⟨ahead, all⟩
  | pausing ahead => simp [hops, pubOps] at ahead

/-! ### The steps between two publications -/

theorem EarlierReported.next (h : EarlierReported cfg cycle s) (he : exec i s = .next t) (hch : t.channel = s.channel)
    (hon : ∀ j < s.channel, .csOn j ∉ tr) : EarlierReported cfg (cycle ++ tr) t := by
  intro j hj
  rw [hch] at hj
  exact (h j hj).next (exec_keeps_entries_of_other_channels he hj.ne) (hon j hj)

theorem preparing_step (hcfg : configOk cfg = true) {before : List Instr} (hahead : s.ahead cfg = before ++ .chs 0 :: channelOps cfg)
    (straight : ∀ i ∈ before, Straight i) (hops : s.ahead cfg = i :: ops) (he : exec i s = .next t) : CycleStage cfg tr t := by
  rw [hops] at hahead
  cases before with
  | nil =>
    obtain ⟨rfl, rfl⟩ := List.cons_eq_cons.1 hahead
    obtain ⟨-, rfl⟩ | ⟨-, rfl⟩ := exec_chs_cases he
    · exact .preparing [] hops (by simp)
    · exact .selecting (ahead_of_movesOn hcfg ⟨rfl, rfl⟩ hops) fun j hj => absurd hj (Nat.not_lt_zero j)
  | cons k before =>
    obtain ⟨rfl, rfl⟩ := List.cons_eq_cons.1 hahead
    obtain ⟨⟨-, hjump⟩, hbefore⟩ := List.forall_mem_cons.1 straight
    obtain hstay | ⟨-, hnext⟩ | ⟨⟨a, hi⟩, -⟩ := exec_ahead_cases hcfg hops he
    · exact .preparing (i :: before) hstay straight
    · exact .preparing before hnext hbefore
    · obtain ⟨hnxt, hjmp⟩ := hjump a
      exact absurd hi (not_or.2 ⟨hnxt, hjmp⟩)

/-- CSA opens the selection of the channel that is read next. -/
theorem Running.selecting_step (hcfg : configOk cfg = true) (hs : Running cfg s) (hahead : s.ahead cfg = channelOps cfg)
    (earlier : EarlierReported cfg cycle s) (h : sequencerStep s = .next t) (he : exec .csa s = .next t) :
    CycleStage cfg (cycle ++ (stepEvents s t).map Prod.snd) t := by
  have hop := hs.currentOp_of_ahead hahead
  obtain ⟨c, rfl⟩ | ⟨rfl, hevents⟩ := hs.csa_step hop h
  · exact ((CycleStage.selecting hahead earlier).append_ledOnly (ledOnly_stepEvents_raise s c)).raise c
  · have idle : (s.putCs s.channel true).advance.exchanging = false := exchanging_eq_false_of_owned (s := s) hs.holds hop (by simp)
    rw [hevents]
    exact .reading [] (readingOps cfg.mode) rfl (ahead_of_movesOn hcfg ⟨rfl, rfl⟩ hahead)
      (earlier.next he rfl fun j hj => by simpa using hj.ne) (readingState_nil idle (openSelection_csOn s.channel cycle))

/-- NXT leads to the next channel's CSA, or to PUB once every channel is reported. -/
theorem nxt_step {a : Addr} (hcfg : configOk cfg = true) (hs : Running cfg s) (hahead : s.ahead cfg = loopOps cfg)
    (earlier : EarlierReported cfg cycle s) (current : Reported cfg cycle s.channel s) (ha : a = BitVec.ofNat 8 (romBase cfg + 2))
    (he : exec (.nxt a) s = .next t) : CycleStage cfg cycle t := by
  have reported : ∀ j < s.channel + 1, Reported cfg cycle j s := fun j hj =>
    (Nat.lt_succ_iff_lt_or_eq.1 hj).elim (earlier j) fun heq => heq ▸ current
  obtain ⟨-, hn, -⟩ := (configOk_iff cfg).1 hcfg
  obtain ⟨hleft, rfl⟩ | ⟨hlast, rfl⟩ := exec_nxt_cases he
  · have body : (romBody cfg).drop 2 = channelOps cfg := by rw [romBody_eq]; rfl
    refine .selecting ((ahead_of_bodyAddress hcfg (by decide) ha rfl).trans body) fun j hj => reported j ?_
    rwa [← toNat_next_channel hleft (hs.cfg_eq ▸ hn)]
  · refine .publishing (ahead_of_movesOn hcfg ⟨rfl, rfl⟩ hahead) fun j hj => reported j ?_
    exact hj.trans_le (hs.cfg_eq ▸ hlast)

theorem Running.reading_step (hcfg : configOk cfg = true) (hs : Running cfg s) {done left : List Instr}
    (split : done ++ left = readingOps cfg.mode) (hahead : s.ahead cfg = left ++ loopOps cfg) (earlier : EarlierReported cfg cycle s)
    (current : ReadingState done cycle s) (hops : s.ahead cfg = i :: ops) (h : sequencerStep s = .next t)
    (he : exec i s = .next t) : CycleStage cfg (cycle ++ (stepEvents s t).map Prod.snd) t := by
  have hop := hs.currentOp_of_ahead hops
  cases left with
  | nil =>
    obtain ⟨rfl, -⟩ := List.cons_eq_cons.1 (hops.symm.trans hahead)
    obtain rfl : done = readingOps cfg.mode := (List.append_nil done).symm.trans split
    obtain ⟨hsclk, -⟩ := exec_clock_eq he (by simp)
    obtain ⟨hreq, -⟩ := exec_handshake_eq he (by simp)
    have quiet : LedOnly ((stepEvents s t).map Prod.snd) := ledOnly_stepEvents (exec_cs_eq he (by simp) (by simp)) hsclk hreq
    have reported := current.reported hs.cfg_eq (exchanging_eq_false_of_owned hs.holds hop (by simp))
    exact (nxt_step hcfg hs hahead earlier reported rfl he).append_ledOnly quiet
  | cons k left =>
    obtain ⟨rfl, rfl⟩ := List.cons_eq_cons.1 (hops.symm.trans hahead)
    have order := inReadingOrder_of_split split
    have hcsa : i ≠ .csa := by rintro rfl; simp [inReadingOrder] at order
    have hch : .ch ∉ writtenBy i := by
      intro hmem
      have owner : (∃ n, i = .chs n) ∨ ∃ a, i = .nxt a := by simpa using owner_of_mem_writtenBy hmem
      obtain ⟨n, rfl⟩ | ⟨a, rfl⟩ := owner <;> simp [inReadingOrder] at order
    have earlier' := earlier.next (tr := (stepEvents s t).map Prod.snd) he (congrArg BitVec.toNat (exec_frame he .ch hch))
      fun j _ => csOn_not_mem_stepEvents h (by simpa [hop] using hcsa) j
    obtain ⟨hstay, state⟩ | ⟨hmoves, state⟩ := hs.readingStep split hop h he current
    · exact .reading done (i :: left) split (hstay.trans hahead) earlier' state
    · exact .reading (done ++ [i]) left (by simpa using split) (ahead_of_movesOn hcfg hmoves hops) earlier' state

/-- After its publication a run pauses, and goes back to CHS 0. -/
theorem pausing_step (hcfg : configOk cfg = true) (hahead : s.ahead cfg = (pubOps cfg).drop 1 ∨ s.ahead cfg = (pubOps cfg).drop 2)
    (hops : s.ahead cfg = i :: ops) (he : exec i s = .next t) : CycleStage cfg tr t := by
  obtain hahead | hahead := hahead
  · obtain ⟨rfl, rfl⟩ := List.cons_eq_cons.1 (hops.symm.trans hahead)
    obtain hstay | ⟨-, hnext⟩ | ⟨⟨a, hi⟩, -⟩ := exec_ahead_cases hcfg hops he
    · exact .pausing (.inl hstay)
    · exact .pausing (.inr hnext)
    · simp at hi
  · obtain ⟨rfl, rfl⟩ := List.cons_eq_cons.1 (hops.symm.trans hahead)
    obtain rfl := exec_jmp_cases he
    have body : (romBody cfg).drop 1 = .chs 0 :: channelOps cfg := by rw [romBody_eq]; rfl
    exact .preparing [] ((ahead_of_bodyAddress hcfg (by decide) rfl rfl).trans body) (by simp)

/-- Away from PUB a step adds its events to the cycle. -/
theorem CycleStage.step (hcfg : configOk cfg = true) (hs : Running cfg s) (hpub : currentOp s ≠ some .pub)
    (stage : CycleStage cfg cycle s) (h : sequencerStep s = .next t) :
    CycleStage cfg (cycle ++ (stepEvents s t).map Prod.snd) t := by
  obtain ⟨c, -, rfl⟩ | ⟨i, hi, he⟩ := sequencerStep_cases h
  · exact (stage.append_ledOnly (ledOnly_stepEvents_raise s c)).raise c
  · obtain ⟨-, -, hop⟩ := (fetch_run_iff i).1 hi
    obtain ⟨ops, hops⟩ := hs.exists_ahead_eq_cons hop
    cases stage with
    | preparing before ahead straight => exact preparing_step hcfg ahead straight hops he
    | selecting ahead earlier =>
      obtain ⟨rfl, -⟩ := List.cons_eq_cons.1 (hops.symm.trans ahead)
      exact hs.selecting_step hcfg ahead earlier h he
    | reading done left split ahead earlier current => exact hs.reading_step hcfg split ahead earlier current hops h he
    | publishing ahead all => exact absurd (hs.currentOp_of_ahead ahead) hpub
    | pausing ahead => exact pausing_step hcfg ahead hops he

/-! ### The cycle in the trace -/

/-- The events of the PUB at which the run stands. -/
def State.handshakeEvents (s : State) : List PinEvent :=
  if s.pubReq then [.pubReq true] else if s.pubRelease then [.pubReq true, .pubReq false] else []

theorem handshakeEvents_of_no_handshake (hreq : s.pubReq = false) (hrelease : s.pubRelease = false) : s.handshakeEvents = [] := by
  rw [State.handshakeEvents, hreq, hrelease]
  rfl

theorem thisCycle_iff : ThisCycle s tr cycle ↔ ∃ before, tr = before ++ (cycle ++ s.handshakeEvents)
    ∧ (before = [] ∨ before.getLast? = some (.pubReq false)) ∧ ∀ b, PinEvent.pubReq b ∉ cycle := Iff.rfl

theorem thisCycle_poweredUp (cfg : Config) (inp : Inputs) : ThisCycle (poweredUp cfg inp) [] [] :=
  ⟨[], rfl, .inl rfl, by simp⟩

/-- Away from PUB no handshake is under way, before a step or after it. -/
theorem OnRom.no_handshake (hs : OnRom cfg s) (hpub : currentOp s ≠ some .pub) (h : sequencerStep s = .next t) :
    (s.pubReq = false ∧ s.pubRelease = false) ∧ t.pubReq = false ∧ t.pubRelease = false := by
  obtain ⟨-, -, hhandshake, -⟩ := hs.holds
  have none_before : s.pubReq = false ∧ s.pubRelease = false := by simpa using mt hhandshake hpub
  refine ⟨none_before, ?_⟩
  obtain ⟨c, -, rfl⟩ | ⟨i, hi, he⟩ := sequencerStep_cases h
  · exact none_before
  · obtain ⟨-, -, hop⟩ := (fetch_run_iff i).1 hi
    obtain ⟨hreq, hrelease⟩ := exec_handshake_eq he fun heq => hpub (heq ▸ hop)
    rwa [hreq, hrelease]

/-- Away from PUB a step adds its events to the trace and to the cycle. -/
theorem OnRom.thisCycle_step (hs : OnRom cfg s) (hpub : currentOp s ≠ some .pub) (h : sequencerStep s = .next t)
    (hcycle : ThisCycle s tr cycle) :
    ThisCycle t (tr ++ (stepEvents s t).map Prod.snd) (cycle ++ (stepEvents s t).map Prod.snd) := by
  obtain ⟨⟨hreq, hrelease⟩, hreq', hrelease'⟩ := hs.no_handshake hpub h
  obtain ⟨before, rfl, hbefore, hnone⟩ := thisCycle_iff.1 hcycle
  refine thisCycle_iff.2 ⟨before, ?_, hbefore, fun b hmem => ?_⟩
  · rw [handshakeEvents_of_no_handshake hreq hrelease, handshakeEvents_of_no_handshake hreq' hrelease']
    simp
  · exact (List.mem_append.1 hmem).elim (hnone b) (pubReq_not_mem_stepEvents (hreq'.trans hreq.symm) b)

/-- The one event that a step of PUB can make. -/
theorem stepEvents_of_pub (hop : currentOp s = some .pub) (he : exec .pub s = .next t) :
    (stepEvents s t).map Prod.snd = if s.pubReq ≠ t.pubReq then [.pubReq t.pubReq] else [] := by
  have led := fetch_ne_run_led hop (by simp)
  have hcs := exec_cs_eq he (by simp) (by simp)
  obtain ⟨hsclk, -⟩ := exec_clock_eq he (by simp)
  simp only [stepEvents, endEvents, selectEvents_of_cs_eq hcs, hsclk, led]
  cases s.sclk <;> simp [Function.comp_def]

/-- A step of PUB that adds its events to the handshake. -/
theorem thisCycle_of_handshakeEvents {events : List PinEvent} (hcycle : ThisCycle s tr cycle)
    (h : t.handshakeEvents = s.handshakeEvents ++ events) : ThisCycle t (tr ++ events) cycle := by
  obtain ⟨before, rfl, hbefore, hnone⟩ := thisCycle_iff.1 hcycle
  exact thisCycle_iff.2 ⟨before, by rw [h]; simp, hbefore, hnone⟩

/-- The end of PUB begins the next cycle. -/
theorem thisCycle_of_closed (hcycle : ThisCycle s tr cycle) (hs : s.handshakeEvents = [.pubReq true, .pubReq false])
    (ht : t.handshakeEvents = []) : ThisCycle t tr [] := by
  obtain ⟨before, rfl, -, -⟩ := thisCycle_iff.1 hcycle
  exact thisCycle_iff.2 ⟨before ++ (cycle ++ s.handshakeEvents), by rw [ht]; simp, .inr (by rw [hs]; simp), by simp⟩

/-! ### What a run keeps -/

/-- What every run of the built ROM keeps from power-up, after the events `tr`. -/
structure InCycle (cfg : Config) (tr : List PinEvent) (s : State) : Prop where
  cycle : ∃ cycle, ThisCycle s tr cycle ∧ CycleStage cfg cycle s
  published : s.pubReq = true ∨ s.pubRelease = true → ∀ j < cfg.n, s.publishedAt j = s.posAt j

theorem inCycle_poweredUp (cfg : Config) (inp : Inputs) : InCycle cfg [] (poweredUp cfg inp) :=
  ⟨⟨[], thisCycle_poweredUp cfg inp, cycleStage_poweredUp cfg inp⟩, by simp [poweredUp, State.powerUp]⟩

theorem InCycle.drive (h : InCycle cfg tr s) (inp : Inputs) : InCycle cfg tr (s.drive inp) := by
  obtain ⟨cycle, hcycle, stage⟩ := h.cycle
  exact ⟨⟨cycle, hcycle, stage.drive inp⟩, h.published⟩

theorem InCycle.raise_at_pub (h : InCycle cfg tr s) (hop : currentOp s = some .pub) (c : FaultCode) :
    InCycle cfg (tr ++ (stepEvents s (s.raise c)).map Prod.snd) (s.raise c) := by
  obtain ⟨cycle, hcycle, stage⟩ := h.cycle
  rw [stepEvents_raise hop (by simp), List.map_nil, List.append_nil]
  exact ⟨⟨cycle, hcycle, stage.raise c⟩, h.published⟩

theorem InCycle.hold_at_pub (h : InCycle cfg tr s) (hop : currentOp s = some .pub) (he : exec .pub s = .next s) :
    InCycle cfg (tr ++ (stepEvents s s).map Prod.snd) s := by
  rw [stepEvents_of_pub hop he, if_neg (by simp), List.append_nil]
  exact h

/-- A step of PUB is one of its handshake (R681). -/
theorem InCycle.pub_step (hcfg : configOk cfg = true) (hs : Running cfg s) (h : InCycle cfg tr s) (hop : currentOp s = some .pub)
    (he : exec .pub s = .next t) : InCycle cfg (tr ++ (stepEvents s t).map Prod.snd) t := by
  obtain ⟨cycle, hcycle, stage⟩ := h.cycle
  obtain ⟨ops, hops⟩ := hs.exists_ahead_eq_cons hop
  obtain ⟨hahead, all⟩ := stage.publishing_of_pub hops
  obtain ⟨hreq, -, rfl⟩ | ⟨-, -, rfl⟩ | ⟨-, -, -, rfl⟩ | ⟨hreq, hrelease, -, rfl⟩ | ⟨-, -, -, rfl⟩ | ⟨hreq, hrelease, -, rfl⟩ :=
    exec_pub_cases he
  · have events : (stepEvents s s.withdraw).map Prod.snd = [.pubReq false] := by
      rw [stepEvents_of_pub hop he, hreq]
      rfl
    have handshake : s.withdraw.handshakeEvents = s.handshakeEvents ++ [.pubReq false] := by
      rw [State.handshakeEvents, State.handshakeEvents, hreq]
      rfl
    rw [events]
    exact ⟨⟨cycle, thisCycle_of_handshakeEvents hcycle handshake, .publishing hahead all⟩, fun _ => h.published (.inl hreq)⟩
  · exact h.hold_at_pub hop he
  · exact h.hold_at_pub hop he
  · have events : (stepEvents s s.closeHandshake.advance).map Prod.snd = [] := by
      rw [stepEvents_of_pub hop he]
      exact if_neg (by simp)
    have before : s.handshakeEvents = [.pubReq true, .pubReq false] := by
      rw [State.handshakeEvents, hreq, hrelease]
      rfl
    have after : s.closeHandshake.advance.handshakeEvents = [] := handshakeEvents_of_no_handshake hreq rfl
    rw [events, List.append_nil]
    exact ⟨⟨[], thisCycle_of_closed hcycle before after, .pausing (.inl (ahead_of_movesOn hcfg ⟨rfl, rfl⟩ hahead))⟩,
      by simp [hreq]⟩
  · exact h.raise_at_pub hop _
  · have events : (stepEvents s (s.publish s.channelArray)).map Prod.snd = [.pubReq true] := by
      rw [stepEvents_of_pub hop he, hreq]
      rfl
    have handshake : (s.publish s.channelArray).handshakeEvents = s.handshakeEvents ++ [.pubReq true] := by
      rw [handshakeEvents_of_no_handshake hreq hrelease]
      rfl
    rw [events]
    exact ⟨⟨cycle, thisCycle_of_handshakeEvents hcycle handshake, .publishing hahead all⟩,
      fun _ j hj => publishedAt_publish (hs.cfg_eq ▸ hj)⟩

theorem InCycle.step (hcfg : configOk cfg = true) (hs : Running cfg s) (h : InCycle cfg tr s) (hstep : sequencerStep s = .next t) :
    InCycle cfg (tr ++ (stepEvents s t).map Prod.snd) t := by
  by_cases hpub : currentOp s = some .pub
  · obtain ⟨c, rfl⟩ | he := sequencerStep_of_currentOp hpub hstep
    · exact h.raise_at_pub hpub c
    · exact h.pub_step hcfg hs hpub he
  · obtain ⟨cycle, hcycle, stage⟩ := h.cycle
    obtain ⟨-, hreq, hrelease⟩ := hs.no_handshake hpub hstep
    exact ⟨⟨_, hs.thisCycle_step hpub hstep hcycle, stage.step hcfg hs hpub hstep⟩, by simp [hreq, hrelease]⟩

theorem InCycle.run (hcfg : configOk cfg = true) (inputs : List Inputs) :
    ∀ (s : State) (tr : List PinEvent), Running cfg s → InCycle cfg tr s → runWith inputs s = .next t →
      InCycle cfg (tr ++ pinTrace inputs s) t := by
  induction inputs with
  | nil =>
    intro s tr _ h hrun
    cases hrun
    simpa [pinTrace, timedTrace] using h
  | cons inp rest ih =>
    intro s tr hs h hrun
    obtain ⟨u, hu, hrest⟩ := runWith_cons_cases hrun
    rw [pinTrace_cons hu, ← List.append_assoc]
    exact ih _ _ (hs.next hu inp) ((h.step hcfg hs hu).drive inp) hrest

end Sys2Proof.Machine
end

section
/-!
PROOFS. The obligation on what is published (R696, R697).
-/

namespace Sys2Proof.Proofs

open Sys2Proof Sys2Proof.Machine

/-- Settles O52: along a run from power-up each channel's reading is built up micro-op by micro-op from the bits of its selection, and a
run comes to PUB with every channel reported; PUB publishes the channel array, which stays as it is until PUB completes. -/
theorem publicationIsParityCheckedReadings : Obligations.PublicationIsParityCheckedReadings := by
  intro cfg inp inputs t hcfg hrun hfetch
  have start := running_poweredUp cfg inp
  have inCycle := InCycle.run hcfg inputs _ [] start (inCycle_poweredUp cfg inp) hrun
  obtain ⟨-, -, hop⟩ := (fetch_run_iff _).1 hfetch
  obtain ⟨ops, hops⟩ := (start.run hrun).exists_ahead_eq_cons hop
  obtain ⟨cycle, hcycle, stage⟩ := inCycle.cycle
  obtain ⟨-, all⟩ := stage.publishing_of_pub hops
  exact ⟨⟨cycle, hcycle, all⟩, inCycle.published⟩

end Sys2Proof.Proofs
end

section
/-!
SUPPORT. A PUB held by a relay that never acknowledges (R731).
-/

namespace Sys2Proof.Machine

open Sys2Proof

variable {s t : State}

/-- Such a PUB is held: after the step its relay still does not acknowledge, and only inputs and the undriven `MOSI` have moved. -/
theorem stepWith_unacknowledged_pub (hrun : fetch s = .run .pub) (hreq : s.pubReq = true) (hack : s.pubAck = false) {inp : Inputs}
    (hinp : inp.pubAck = false) : stepWith inp s = .next (s.drive inp) ∧ OnlyWrites [.miso, .mosi, .extraTicks] s (s.drive inp) := by
  refine ⟨stepWith_of_sequencerStep ?_ inp, fun f hf => ?_⟩
  · rw [sequencerStep_of_fetch hrun, exec_pub_of_request hreq, hack]
    rfl
  · by_cases hpin : f = .pubAck
    · subst hpin
      simp [Field.same, hinp, hack]
    · exact drive_frame s inp f (by simpa [hpin] using hf)

theorem runWith_unacknowledged_pub (inputs : List Inputs) :
    ∀ s, fetch s = .run .pub → s.pubReq = true → s.pubAck = false → (∀ inp ∈ inputs, inp.pubAck = false) →
      ∃ t, runWith inputs s = .next t ∧ OnlyWrites [.miso, .mosi, .extraTicks] s t := by
  induction inputs with
  | nil => exact fun s _ _ _ _ => ⟨s, runWith_nil s, OnlyWrites.refl _ s⟩
  | cons inp rest ih =>
    intro s hrun hreq hack hinputs
    obtain ⟨hinp, hrest⟩ := List.forall_mem_cons.1 hinputs
    obtain ⟨hstep, held⟩ := stepWith_unacknowledged_pub hrun hreq hack hinp
    have fetched : fetch (s.drive inp) = .run .pub := (fetch_eq_of_frame held (by decide)).trans hrun
    obtain ⟨t, ht, frame⟩ := ih _ fetched hreq ((held .pubAck (by simp)).trans hack) hrest
    refine ⟨t, by rw [runWith_cons, hstep, andThen_next, ht], OnlyWrites.mono (OnlyWrites.trans held frame) (by simp)⟩

end Sys2Proof.Machine
end

section
/-!
PROOFS. The obligations on exceptions (60_exceptions.md) that speak of every state: the answer of a micro-op, and the held PUB.
-/

namespace Sys2Proof.Proofs

open Sys2Proof Sys2Proof.Machine

/-- Settles O29: no arm of `exec` stops. -/
theorem everyMicroOpAnswersNext : Obligations.EveryMicroOpAnswersNext := exists_exec_eq_next

/-- Settles O50: each step leaves the hold as it is, so the run does, by induction on its inputs. -/
theorem unacknowledgedPublicationHolds : Obligations.UnacknowledgedPublicationHolds :=
  fun s inputs => runWith_unacknowledged_pub inputs s

end Sys2Proof.Proofs
end

section
/-!
SUPPORT. What the micro-ops that are done tell of a state, the check of a list of micro-ops against it, and that the built ROM passes
this check, up to its end and across its two jumps (R690 to R693, R712).
-/

namespace Sys2Proof.Machine

open Sys2Proof

variable {cfg : Config} {i : Instr} {s t : State} {ops : List Instr}

/-! ### The check -/

/-- What is known of a state: whether GO is done, whether the current channel is selected, which byte cells and which flags are
written. -/
structure Known where
  cycling : Bool
  selected : Bool
  bytes : List (WordSel × ByteSel)
  flags : List WordSel

variable {k : Known}

/-- What is known where a run's preamble and its GO are done and no channel is selected. -/
def Known.inBody : Known := ⟨true, false, [], []⟩

/-- What is known at reset. -/
def Known.atReset : Known := ⟨false, false, [], []⟩

/-- What a micro-op adds to what is known. -/
def Known.after (k : Known) : Instr → Known
  | .csa => { k with selected := true }
  | .csd => { k with selected := false }
  | .xfer _ false w b => { k with bytes := (w, b) :: k.bytes }
  | .chk w => { k with flags := w :: k.flags }
  | .go => { k with cycling := true }
  | _ => k

/-- What is known shuts out the micro-op's model faults (R711). Two are shut out elsewhere: the F3 of a micro-op other than CHS by
`Meets`, and the F6 of PUB by what the cycle has reported. Channels change, and a run jumps back, only while none is selected. -/
def Permitted (cfg : Config) (k : Known) : Instr → Prop
  | .csa => k.selected = false
  | .csd => k.selected = true
  | .xfer _ discard w _ => k.selected = true ∧ (discard = false → turnForbidden cfg w = false)
  | .chk w => turnForbidden cfg w = false ∧ (w, .hi) ∈ k.bytes ∧ (w, .lo) ∈ k.bytes
  | .led => .position ∈ k.flags ∧ (cfg.mode = .multiTurn → .turn ∈ k.flags)
  | .nrm w => turnForbidden cfg w = false ∧ (w, .hi) ∈ k.bytes ∧ (w, .lo) ∈ k.bytes ∧ w ∈ k.flags
  | .chs n => n.toNat < cfg.n ∧ k.selected = false
  | .nxt _ | .jmp _ => k.cycling = true ∧ k.selected = false
  | .go => k.cycling = false
  | .wait _ | .pub => True

/-- Each of the micro-ops is permitted by what is known before it, and they end in a JMP. -/
def Checked (cfg : Config) : Known → List Instr → Prop
  | _, [] => False
  | k, i :: ops => Permitted cfg k i ∧ ((∀ a, i ≠ .jmp a) → Checked cfg (k.after i) ops)

/-! ### The built ROM passes it -/

/-- The check, run over the body of either mode. -/
theorem checked_body (hcfg : configOk cfg = true) : Checked cfg .atReset (romBody cfg) := by
  obtain ⟨hn, -⟩ := (configOk_iff cfg).1 hcfg
  unfold romBody
  cases hm : cfg.mode <;>
    simp [Checked, Permitted, Known.after, Known.atReset, bodyHead, bodyTail, turnForbidden, hm, Nat.lt_of_succ_le hn]

/-- From CHS 0 on, and from CSA on, the body needs no byte and no flag of a reading before. -/
theorem checked_body_drop (hcfg : configOk cfg = true) : Checked cfg .inBody ((romBody cfg).drop 1)
    ∧ Checked cfg .inBody ((romBody cfg).drop 2) := by
  obtain ⟨-, hchs⟩ := checked_body hcfg
  obtain ⟨-, hcsa⟩ := hchs (by simp)
  exact ⟨hchs (by simp), hcsa (by simp)⟩

theorem checked_zeroSetOps_append {c : Nat} (hc : c < cfg.n) (hops : Checked cfg .atReset ops) :
    Checked cfg .atReset (zeroSetOps c ++ ops) := by
  have number : c % 256 < cfg.n := (Nat.mod_le c 256).trans_lt hc
  simpa [Checked, Permitted, Known.after, Known.atReset, zeroSetOps, number] using hops

theorem checked_romOps (hcfg : configOk cfg = true) : Checked cfg .atReset (romOps cfg) := by
  obtain ⟨-, -, -, -, hzero, -⟩ := (configOk_iff cfg).1 hcfg
  suffices preamble : ∀ channels : List Nat, (∀ c ∈ channels, c < cfg.n) →
      Checked cfg .atReset (preambleOps channels ++ romBody cfg) from preamble _ hzero
  intro channels
  induction channels with
  | nil => exact fun _ => checked_body hcfg
  | cons c channels ih =>
    intro hchannels
    obtain ⟨hc, hchannels⟩ := List.forall_mem_cons.1 hchannels
    rw [preambleOps_cons_append]
    exact checked_zeroSetOps_append hc (ih hchannels)

/-! ### What is known of a state -/

/-- What is known holds in the state, and the current channel is one of the `N`. -/
structure Meets (k : Known) (s : State) : Prop where
  channel : s.channelOk = true
  phase : s.phase = if k.cycling then .cycling else .idle
  selected : ∀ j, s.selected j = (k.selected && decide (j = s.channel))
  bytes : ∀ w b, (w, b) ∈ k.bytes → s.byteAt w b ≠ none
  flags : ∀ w ∈ k.flags, s.validity w ≠ none

theorem meets_poweredUp (hcfg : configOk cfg = true) (inp : Inputs) : Meets .atReset (poweredUp cfg inp) where
  channel := by
    obtain ⟨hn, -⟩ := (configOk_iff cfg).1 hcfg
    exact (State.channelOk_iff _).2 hn
  phase := rfl
  selected := by simp [Known.atReset, poweredUp, State.powerUp, State.selected]
  bytes := by simp [Known.atReset]
  flags := by simp [Known.atReset]

/-- The fields that what is known speaks of. -/
def knownFields : List Field := [.cfg, .phase, .ch, .cs, .wbPosition, .wbTurn, .vPosition, .vTurn]

theorem Meets.of_same (h : Meets k s) (same : ∀ f ∈ knownFields, f.same s t) : Meets k t := by
  simp only [knownFields, List.forall_mem_cons, Field.same] at same
  obtain ⟨cfg, phase, ch, cs, wbPosition, wbTurn, vPosition, vTurn, -⟩ := same
  have channel : t.channel = s.channel := congrArg BitVec.toNat ch
  have selected : t.selected = s.selected := by
    funext j
    rw [State.selected, State.selected, cs]
  have bytes : t.byteAt = s.byteAt := by
    funext w b
    cases w <;> cases b <;> simp only [State.byteAt, wbPosition, wbTurn]
  have flags : t.validity = s.validity := by
    funext w
    cases w <;> simp only [State.validity, vPosition, vTurn]
  refine ⟨?_, phase.trans h.phase, ?_, bytes ▸ h.bytes, flags ▸ h.flags⟩
  · rw [State.channelOk, channel, cfg]
    exact h.channel
  · rw [selected, channel]
    exact h.selected

theorem Meets.of_frame {fs : List Field} (h : Meets k s) (frame : OnlyWrites fs s t) (hfs : ∀ f ∈ knownFields, f ∉ fs) : Meets k t :=
  h.of_same fun f hf => frame f (hfs f hf)

theorem Meets.advance (h : Meets k s) : Meets k s.advance := h.of_frame (advance_frame s) (by decide)

theorem Meets.jump (h : Meets k s) (a : Addr) : Meets k (s.jump a) := h.of_frame (jump_frame s a) (by decide)

theorem Meets.drive (h : Meets k s) (inp : Inputs) : Meets k (s.drive inp) := h.of_frame (drive_frame s inp) (by decide)

theorem Meets.clockFall (h : Meets k s) : Meets k s.clockFall := h.of_frame (clockFall_frame s) (by decide)

/-- Where no channel is selected, the current one may change. -/
theorem Meets.putChannel (h : Meets k s) (hsel : k.selected = false) {n : Byte} (hn : n.toNat < s.cfg.n) :
    Meets k (s.putChannel n) where
  channel := (State.channelOk_iff _).2 hn
  phase := h.phase
  selected := by simpa [hsel] using h.selected
  bytes := by simpa using h.bytes
  flags := by simpa using h.flags

theorem Meets.startCycling (h : Meets k s) : Meets { k with cycling := true } s.startCycling :=
  ⟨h.channel, rfl, h.selected, h.bytes, h.flags⟩

theorem Meets.putCs (h : Meets k s) (hs : Shaped s) (b : Bool) : Meets { k with selected := b } (s.putCs s.channel b) where
  channel := h.channel
  phase := h.phase
  selected := by
    intro j
    obtain ⟨length, -⟩ := hs
    by_cases hj : j = s.channel
    · subst hj
      simpa using s.selected_putCs_self _ b (length ▸ s.channelOk_iff.1 h.channel)
    · rw [s.selected_putCs_ne s.channel j b hj, h.selected j]
      simp [hj]
  bytes := h.bytes
  flags := h.flags

theorem Meets.putByte (h : Meets k s) (w : WordSel) (b : ByteSel) (x : Byte) :
    Meets { k with bytes := (w, b) :: k.bytes } (s.putByte w b x) where
  channel := by simpa using h.channel
  phase := by simpa using h.phase
  selected := by simpa using h.selected
  bytes := by
    intro w' b' hmem
    rw [State.byteAt_putByte]
    split_ifs with hcell
    · exact Option.some_ne_none x
    · exact h.bytes w' b' ((List.mem_cons.1 hmem).resolve_left (by simpa using hcell))
  flags := by simpa using h.flags

theorem Meets.putValidity (h : Meets k s) (w : WordSel) (v : Bool) :
    Meets { k with flags := w :: k.flags } (s.putValidity w v) where
  channel := by simpa using h.channel
  phase := by simpa using h.phase
  selected := by simpa using h.selected
  bytes := by simpa using h.bytes
  flags := by
    intro w' hmem
    rw [State.validity_putValidity]
    split_ifs with hflag
    · exact Option.some_ne_none v
    · exact h.flags w' ((List.mem_cons.1 hmem).resolve_left hflag)

/-- After a jump GO is done and no channel is selected. -/
theorem Meets.inBody (h : Meets k s) (hcycling : k.cycling = true) (hsel : k.selected = false) : Meets .inBody s where
  channel := h.channel
  phase := by simpa [Known.inBody, hcycling] using h.phase
  selected := by simpa [Known.inBody, hsel] using h.selected
  bytes := by simp [Known.inBody]
  flags := by simp [Known.inBody]

theorem Meets.word_ne_none {w : WordSel} (h : Meets k s) (hhi : (w, .hi) ∈ k.bytes) (hlo : (w, .lo) ∈ k.bytes) :
    s.word w ≠ none := by
  rw [ne_eq, State.word_eq_none_iff, not_or]
  exact ⟨h.bytes w .hi hhi, h.bytes w .lo hlo⟩

theorem Meets.indicatorValue_ne_none (h : Meets k s) (hpermitted : Permitted s.cfg k .led) : s.indicatorValue ≠ none := by
  obtain ⟨hposition, hturn⟩ := hpermitted
  intro hnone
  obtain hv | ⟨hmode, -, hv⟩ := s.indicatorValue_eq_none_iff.1 hnone
  · exact h.flags .position hposition hv
  · exact h.flags .turn (hturn hmode) hv

end Sys2Proof.Machine
end

section
/-!
SUPPORT. No step of a run of the built ROM faults (R712): what is known of a state stands through each micro-op, and shuts out its
model faults.
-/

namespace Sys2Proof.Machine

open Sys2Proof

variable {cfg : Config} {k : Known} {i : Instr} {s t : State} {ops : List Instr} {tr : List PinEvent}

/-! ### The micro-ops ahead of a run -/

/-- What is known of a state permits the micro-ops ahead of it. -/
def Permits (cfg : Config) (s : State) : Prop := ∃ k, Meets k s ∧ Checked cfg k (s.ahead cfg)

theorem permits_poweredUp (hcfg : configOk cfg = true) (inp : Inputs) : Permits cfg (poweredUp cfg inp) :=
  ⟨.atReset, meets_poweredUp hcfg inp, checked_romOps hcfg⟩

/-- A micro-op at `upc` that what is known permits, with those after it. -/
structure PermittedAt (cfg : Config) (k : Known) (i : Instr) (s : State) : Prop extends Running cfg s where
  wellFormed : configOk cfg = true
  meets : Meets k s
  permitted : Permitted s.cfg k i
  ahead : ∃ ops, s.ahead cfg = i :: ops ∧ Checked cfg k (i :: ops)

/-- A step that raises no model fault and leads to micro-ops that are permitted. -/
def FaultFreeStep (cfg : Config) (s t : State) : Prop := t.fault = s.fault ∧ Permits cfg t

namespace PermittedAt

/-- A micro-op other than JMP moves on to a permitted one, once what it adds to what is known holds. -/
theorem permits_of_movesOn (h : PermittedAt cfg k i s) (hi : ∀ a, i ≠ .jmp a) (hmoves : MovesOn s t) (ht : Meets (k.after i) t) :
    Permits cfg t := by
  obtain ⟨ops, hops, -, hrest⟩ := h.ahead
  exact ⟨k.after i, ht, ahead_of_movesOn h.wellFormed hmoves hops ▸ hrest hi⟩

theorem permits_of_stay (h : PermittedAt cfg k i s) (hahead : t.ahead cfg = s.ahead cfg) (ht : Meets k t) : Permits cfg t := by
  obtain ⟨ops, hops, hcheck⟩ := h.ahead
  exact ⟨k, ht, (hahead.trans hops) ▸ hcheck⟩

/-- R691, R692: both jumps lead to permitted micro-ops. -/
theorem permits_of_jump (h : PermittedAt cfg k i s) {a : Addr} (hi : i = .nxt a ∨ i = .jmp a) (ht : Meets k t)
    (hahead : t.ahead cfg = (romBody cfg).drop 1 ∨ t.ahead cfg = (romBody cfg).drop 2) : Permits cfg t := by
  obtain ⟨hcycling, hsel⟩ : k.cycling = true ∧ k.selected = false := by
    obtain rfl | rfl := hi <;> exact h.permitted
  obtain ⟨fromChs, fromCsa⟩ := checked_body_drop h.wellFormed
  obtain hahead | hahead := hahead
  · exact ⟨.inBody, ht.inBody hcycling hsel, hahead ▸ fromChs⟩
  · exact ⟨.inBody, ht.inBody hcycling hsel, hahead ▸ fromCsa⟩

/-- A micro-op that adds nothing to what is known, and keeps it. -/
theorem permits_of_kept (h : PermittedAt cfg k i s) (he : exec i s = .next t) (hi : ∀ a, i ≠ .jmp a) (hafter : k.after i = k)
    (ht : Meets k t) : Permits cfg t := by
  obtain ⟨ops, hops, -⟩ := h.ahead
  obtain hstay | ⟨hmoves, -⟩ | ⟨⟨a, hjump⟩, hahead⟩ := exec_ahead_cases h.wellFormed hops he
  · exact h.permits_of_stay (hstay.trans hops.symm) ht
  · exact h.permits_of_movesOn hi hmoves (hafter.symm ▸ ht)
  · exact h.permits_of_jump hjump ht hahead

/-- A micro-op that writes none of what is known. -/
theorem permits_of_frame (h : PermittedAt cfg k i s) (he : exec i s = .next t) (hi : ∀ a, i ≠ .jmp a) (hafter : k.after i = k)
    (hf : ∀ f ∈ knownFields, f ∉ writtenBy i) : Permits cfg t :=
  h.permits_of_kept he hi hafter (h.meets.of_frame (exec_frame he) hf)

/-! ### The micro-ops, one by one -/

theorem csa_step (h : PermittedAt cfg k .csa s) (he : exec .csa s = .next t) : FaultFreeStep cfg s t := by
  have hsel : k.selected = false := h.permitted
  obtain ⟨hch, -⟩ | ⟨-, hany, -⟩ | ⟨-, -, rfl⟩ := exec_csa_cases he
  · simp [h.meets.channel] at hch
  · obtain ⟨j, -, hj⟩ := s.anySelected_iff.1 hany
    simp [h.meets.selected j, hsel] at hj
  · exact ⟨rfl, h.permits_of_movesOn (by simp) ⟨rfl, rfl⟩ (h.meets.putCs h.shaped true).advance⟩

theorem csd_step (h : PermittedAt cfg k .csd s) (he : exec .csd s = .next t) : FaultFreeStep cfg s t := by
  have hsel : k.selected = true := h.permitted
  obtain ⟨hch, -⟩ | ⟨-, hnot, -⟩ | ⟨-, -, rfl⟩ := exec_csd_cases he
  · simp [h.meets.channel] at hch
  · simp [h.meets.selected, hsel] at hnot
  · exact ⟨rfl, h.permits_of_movesOn (by simp) ⟨rfl, rfl⟩ (h.meets.putCs h.shaped false).advance⟩

/-- XFER's checks pass where an exchange begins, and its shifter is written where one goes on (log 4). -/
theorem xfer_step {c : Command} {discard : Bool} {w : WordSel} {b : ByteSel} (h : PermittedAt cfg k (.xfer c discard w b) s)
    (he : exec (.xfer c discard w b) s = .next t) : FaultFreeStep cfg s t := by
  obtain ⟨hsel, hmode⟩ : k.selected = true ∧ (discard = false → turnForbidden s.cfg w = false) := h.permitted
  have written (hx : s.exchanging = true) : s.tx ≠ none ∧ s.rx ≠ none := by
    obtain ⟨exchange, -⟩ := (holdsOwned_iff s).1 h.holds
    obtain ⟨-, -, -, -, -, -, -, -, htx, hrx⟩ := exchange hx
    exact ⟨Option.isSome_iff_ne_none.1 htx, Option.isSome_iff_ne_none.1 hrx⟩
  obtain ⟨-, hch, -⟩ | ⟨-, -, hnot, -⟩ | ⟨-, -, -, hstore, hforbidden, -⟩ | ⟨-, -, -, -, rfl⟩ | ⟨-, hx, htx, -⟩ | ⟨x, -, -, -, rfl⟩
    | ⟨-, -, rfl⟩ | ⟨-, -, rfl, rfl⟩ | ⟨hclock, -, -, hrx, -⟩ | ⟨x, -, -, rfl, -, rfl⟩ := exec_xfer_cases he
  · simp [h.meets.channel] at hch
  · simp [h.meets.selected, hsel] at hnot
  · simp [hmode hstore] at hforbidden
  · exact ⟨rfl, h.permits_of_stay rfl (h.meets.of_frame (clockRise_frame s _ _) (by decide))⟩
  · exact absurd htx (written hx).1
  · exact ⟨rfl, h.permits_of_stay rfl (h.meets.of_frame (clockRise_frame s _ _) (by decide))⟩
  · exact ⟨rfl, h.permits_of_stay rfl h.meets.clockFall⟩
  · exact ⟨rfl, h.permits_of_movesOn (by simp) ⟨rfl, rfl⟩ h.meets.clockFall.advance⟩
  · exact absurd hrx (written (s.exchanging_of_sclk hclock)).2
  · exact ⟨by simp, h.permits_of_movesOn (by simp) ⟨by simp, by simp⟩ (h.meets.clockFall.putByte w b x).advance⟩

theorem chk_step {w : WordSel} (h : PermittedAt cfg k (.chk w) s) (he : exec (.chk w) s = .next t) : FaultFreeStep cfg s t := by
  obtain ⟨hmode, hhi, hlo⟩ := h.permitted
  obtain ⟨hforbidden, -⟩ | ⟨-, hnone, -⟩ | ⟨x, -, -, rfl⟩ := exec_chk_cases he
  · simp [hmode] at hforbidden
  · exact absurd hnone (h.meets.word_ne_none hhi hlo)
  · exact ⟨by simp, h.permits_of_movesOn (by simp) ⟨by simp, by simp⟩ (h.meets.putValidity w _).advance⟩

theorem led_step (h : PermittedAt cfg k .led s) (he : exec .led s = .next t) : FaultFreeStep cfg s t := by
  have permits : Permits cfg t := h.permits_of_frame he (by simp) rfl (by simp [knownFields, writtenBy])
  obtain ⟨hch, -⟩ | ⟨-, hnone, -⟩ | ⟨b, -, -, rfl⟩ := exec_led_cases he
  · simp [h.meets.channel] at hch
  · exact absurd hnone (h.meets.indicatorValue_ne_none h.permitted)
  · exact ⟨rfl, permits⟩

theorem nrm_step {w : WordSel} (h : PermittedAt cfg k (.nrm w) s) (he : exec (.nrm w) s = .next t) : FaultFreeStep cfg s t := by
  have permits : Permits cfg t := h.permits_of_frame he (by simp) rfl (by cases w <;> simp [knownFields, writtenBy])
  obtain ⟨hmode, hhi, hlo, hflag⟩ := h.permitted
  obtain ⟨hch, -⟩ | ⟨-, hforbidden, -⟩ | ⟨-, -, hnone | hnone, -⟩ | ⟨x, v, -, -, -, -, rfl⟩ := exec_nrm_cases he
  · simp [h.meets.channel] at hch
  · simp [hmode] at hforbidden
  · exact absurd hnone (h.meets.word_ne_none hhi hlo)
  · exact absurd hnone (h.meets.flags w hflag)
  · exact ⟨by simp, permits⟩

theorem chs_step {n : Byte} (h : PermittedAt cfg k (.chs n) s) (he : exec (.chs n) s = .next t) : FaultFreeStep cfg s t := by
  obtain ⟨hn, hsel⟩ : n.toNat < s.cfg.n ∧ k.selected = false := h.permitted
  obtain ⟨hpast, -⟩ | ⟨-, rfl⟩ := exec_chs_cases he
  · exact absurd hn hpast.not_gt
  · exact ⟨rfl, h.permits_of_kept he (by simp) rfl (h.meets.putChannel hsel hn).advance⟩

theorem nxt_step {a : Addr} (h : PermittedAt cfg k (.nxt a) s) (he : exec (.nxt a) s = .next t) : FaultFreeStep cfg s t := by
  obtain ⟨-, hsel⟩ : k.cycling = true ∧ k.selected = false := h.permitted
  obtain ⟨-, hn, -⟩ := (configOk_iff cfg).1 h.wellFormed
  obtain ⟨hleft, rfl⟩ | ⟨-, rfl⟩ := exec_nxt_cases he
  · have next : (s.ch + 1).toNat < s.cfg.n := (toNat_next_channel hleft (h.cfg_eq ▸ hn)).trans_lt hleft
    exact ⟨rfl, h.permits_of_kept he (by simp) rfl ((h.meets.putChannel hsel next).jump a)⟩
  · exact ⟨rfl, h.permits_of_kept he (by simp) rfl h.meets.advance⟩

theorem jmp_step {a : Addr} (h : PermittedAt cfg k (.jmp a) s) (he : exec (.jmp a) s = .next t) : FaultFreeStep cfg s t := by
  obtain ⟨ops, hops, -⟩ := h.ahead
  obtain rfl := exec_jmp_cases he
  have mem : .jmp a ∈ romOps cfg := (ahead_suffix cfg s).subset (hops ▸ List.mem_cons_self)
  exact ⟨rfl, h.permits_of_jump (.inr rfl) (h.meets.jump a) (ahead_of_jump h.wellFormed mem (.inr rfl) rfl rfl)⟩

theorem go_step (h : PermittedAt cfg k .go s) (he : exec .go s = .next t) : FaultFreeStep cfg s t := by
  have hcycling : k.cycling = false := h.permitted
  obtain ⟨hphase, -⟩ | ⟨-, rfl⟩ := exec_go_cases he
  · simp [h.meets.phase, hcycling] at hphase
  · exact ⟨rfl, h.permits_of_movesOn (by simp) ⟨rfl, rfl⟩ h.meets.startCycling.advance⟩

/-- PUB finds every entry of the channel array written: each channel is reported in the cycle that ends there (R696). -/
theorem pub_step (h : PermittedAt cfg k .pub s) (hcycle : InCycle cfg tr s) (he : exec .pub s = .next t) : FaultFreeStep cfg s t := by
  have permits : Permits cfg t := h.permits_of_frame he (by simp) rfl (by simp [knownFields, writtenBy])
  obtain ⟨-, -, rfl⟩ | ⟨-, -, rfl⟩ | ⟨-, -, -, rfl⟩ | ⟨-, -, -, rfl⟩ | ⟨-, -, hnone, -⟩ | ⟨-, -, -, rfl⟩ := exec_pub_cases he
  · exact ⟨rfl, permits⟩
  · exact ⟨rfl, permits⟩
  · exact ⟨rfl, permits⟩
  · exact ⟨rfl, permits⟩
  · obtain ⟨ops, hops, -⟩ := h.ahead
    obtain ⟨cycle, -, stage⟩ := hcycle.cycle
    obtain ⟨-, all⟩ := stage.publishing_of_pub hops
    obtain ⟨j, hj, hunwritten⟩ := s.channelArray_written_iff.1 hnone
    obtain ⟨x, body, -, -, hpos, -⟩ := all j (h.cfg_eq ▸ hj)
    exact absurd (hpos.symm.trans hunwritten) (Option.some_ne_none _)
  · exact ⟨rfl, permits⟩

/-- A permitted micro-op raises no model fault. -/
theorem faultFreeStep (h : PermittedAt cfg k i s) (hcycle : InCycle cfg tr s) (he : exec i s = .next t) : FaultFreeStep cfg s t := by
  cases i with
  | csa => exact h.csa_step he
  | csd => exact h.csd_step he
  | xfer c discard w b => exact h.xfer_step he
  | wait d =>
    exact ⟨exec_frame he .fault (by simp [writtenBy]), h.permits_of_frame he (by simp) rfl (by simp [knownFields, writtenBy])⟩
  | chk w => exact h.chk_step he
  | led => exact h.led_step he
  | nrm w => exact h.nrm_step he
  | chs n => exact h.chs_step he
  | nxt a => exact h.nxt_step he
  | jmp a => exact h.jmp_step he
  | pub => exact h.pub_step hcycle he
  | go => exact h.go_step he

end PermittedAt

/-! ### What a run keeps -/

/-- What every run of the built ROM keeps from power-up: no fault is recorded, and the micro-ops ahead are permitted. -/
structure FaultFree (cfg : Config) (s : State) : Prop extends Running cfg s where
  cycle : ∃ tr, InCycle cfg tr s
  safe : Safe s
  permits : Permits cfg s

theorem faultFree_poweredUp (hcfg : configOk cfg = true) (inp : Inputs) : FaultFree cfg (poweredUp cfg inp) where
  toRunning := running_poweredUp cfg inp
  cycle := ⟨[], inCycle_poweredUp cfg inp⟩
  safe := rfl
  permits := permits_poweredUp hcfg inp

/-- The fetch finds a permitted micro-op: `upc` is inside the ROM. -/
theorem FaultFree.exists_permittedAt (hcfg : configOk cfg = true) (hs : FaultFree cfg s) :
    ∃ k i, fetch s = .run i ∧ PermittedAt cfg k i s := by
  obtain ⟨k, meets, checked⟩ := hs.permits
  cases hops : s.ahead cfg with
  | nil => exact (hops ▸ checked : Checked cfg k []).elim
  | cons i ops =>
    have hcheck : Checked cfg k (i :: ops) := hops ▸ checked
    have permitted : Permitted cfg k i := hcheck.1
    have run : fetch s = .run i := (fetch_run_iff i).2 ⟨hs.cfg_eq ▸ hcfg, hs.safe, hs.currentOp_of_ahead hops⟩
    exact ⟨k, i, run, hs.toRunning, hcfg, meets, hs.cfg_eq ▸ permitted, ops, hops, hcheck⟩

theorem FaultFree.exists_next (hcfg : configOk cfg = true) (hs : FaultFree cfg s) (inp : Inputs) :
    ∃ t, stepWith inp s = .next t ∧ FaultFree cfg t := by
  obtain ⟨k, i, run, permittedAt⟩ := hs.exists_permittedAt hcfg
  obtain ⟨tr, inCycle⟩ := hs.cycle
  obtain ⟨t, he⟩ := exists_exec_eq_next i s
  have next : sequencerStep s = .next t := (sequencerStep_of_fetch run).trans he
  obtain ⟨hfault, k', meets, checked⟩ := permittedAt.faultFreeStep inCycle he
  exact ⟨t.drive inp, stepWith_of_sequencerStep next inp, hs.next next inp, ⟨_, (inCycle.step hcfg hs.toRunning next).drive inp⟩,
    hfault.trans hs.safe, k', meets.drive inp, checked⟩

theorem FaultFree.run (hcfg : configOk cfg = true) (inputs : List Inputs) :
    ∀ s, FaultFree cfg s → ∃ t, runWith inputs s = .next t ∧ FaultFree cfg t := by
  induction inputs with
  | nil => exact fun s hs => ⟨s, runWith_nil s, hs⟩
  | cons inp rest ih =>
    intro s hs
    obtain ⟨u, hu, hnext⟩ := hs.exists_next hcfg inp
    obtain ⟨t, ht, hrun⟩ := ih u hnext
    exact ⟨t, by rw [runWith_cons, hu, andThen_next, ht], hrun⟩

end Sys2Proof.Machine
end

section
/-!
PROOFS. The obligation on the model faults of a run of the built ROM (R712).
-/

namespace Sys2Proof.Proofs

open Sys2Proof Sys2Proof.Machine

/-- Settles O51: the built ROM passes the check that each of its micro-ops is permitted by what the ones before it leave, and a permitted
micro-op raises no model fault and leads to permitted ones. -/
theorem romRunsNeverFault : Obligations.RomRunsNeverFault := by
  intro cfg inp inputs hcfg
  obtain ⟨t, hrun, faultFree⟩ := (faultFree_poweredUp hcfg inp).run hcfg inputs
  exact ⟨t, hrun, faultFree.safe⟩

end Sys2Proof.Proofs
end

section
/-!
SUPPORT. The delay after a publication (R691, R692, R822): a PUB that completes leaves the whole of the WAIT CYCLE behind it, and no
select comes before that WAIT is over.
-/

namespace Sys2Proof.Machine

open Sys2Proof

variable {cfg : Config} {i : Instr} {s t : State} {d : Delay} {ops : List Instr}

/-- Where a run moves on to a WAIT with no time counted yet, the whole of its delay is left. -/
theorem OnRom.heldFor_of_movesOn_to_wait (hcfg : configOk cfg = true) (ht : OnRom cfg t) (hops : s.ahead cfg = i :: .wait d :: ops)
    (hmoves : MovesOn s t) (htimer : t.timer = 0) : t.heldFor = delayTime cfg d := by
  have atWait : currentOp t = some (.wait d) := ht.currentOp_of_ahead (ahead_of_movesOn hcfg hmoves hops)
  rw [heldFor_of_wait atWait, waitLeft_of_timer_zero d htimer, ht.cfg_eq]

/-- A run that has completed PUB has the whole of `T_CYCLE` to wait. -/
theorem Running.heldFor_of_completed_pub (hcfg : configOk cfg = true) (hs : Running cfg s) {cycle : List PinEvent}
    (stage : CycleStage cfg cycle s) (hfetch : fetch s = .run .pub) (h : sequencerStep s = .next t) (hmoves : MovesOn s t)
    (inp : Inputs) : (t.drive inp).heldFor = cfg.tCycle := by
  obtain ⟨-, -, hop⟩ := (fetch_run_iff _).1 hfetch
  obtain ⟨ops, hops⟩ := hs.exists_ahead_eq_cons hop
  obtain ⟨hahead, -⟩ := stage.publishing_of_pub hops
  have he : exec .pub s = .next t := (sequencerStep_of_fetch hfetch).symm.trans h
  have htimer : t.timer = 0 := (exec_timer_eq he (by simp)).trans (timer_eq_zero_of_owned hs.holds hop (by simp))
  exact (hs.next h inp).heldFor_of_movesOn_to_wait hcfg hahead hmoves htimer

/-- A select is at least `heldFor` away: it is made by a CSA, which is no WAIT. -/
theorem countdown_heldFor_select (h : Timed cfg) : Countdown (OnRom cfg) State.heldFor IsSelect :=
  countdown_heldFor h fun s t ht x hx ⟨n, he⟩ => by
    obtain ⟨hop, -⟩ := currentOp_of_csOn ht hx he
    exact ⟨.csa, hop, by simp⟩

end Sys2Proof.Machine
end

section
/-!
SUPPORT. The state after reset (R801): what its cells read, and the invariants it meets.
-/

namespace Sys2Proof.Machine

open Sys2Proof

section

variable (cfg : Config) (rom : List Word) (inp : Inputs)

/-! ### The cells after reset -/

theorem selected_powerUp (i : Nat) : (State.powerUp cfg rom inp).selected i = false := by
  simp [State.selected, State.powerUp]

theorem lit_powerUp (i : Nat) : (State.powerUp cfg rom inp).lit i = false := by
  simp [State.lit, State.powerUp]

theorem selectLevel_powerUp (i : Nat) : (State.powerUp cfg rom inp).selectLevel i = !cfg.csActiveLevel := by
  rw [State.selectLevel, selected_powerUp]
  rfl

theorem byteAt_powerUp (w : WordSel) (k : ByteSel) : (State.powerUp cfg rom inp).byteAt w k = none := by
  cases w <;> cases k <;> rfl

theorem validity_powerUp (w : WordSel) : (State.powerUp cfg rom inp).validity w = none := by
  cases w <;> rfl

/-- The arrays of readings, of validity records and of published words are unwritten at every index. -/
theorem entries_powerUp (i : Nat) :
    (State.powerUp cfg rom inp).posAt i = none ∧ (State.powerUp cfg rom inp).turnAt i = none
      ∧ (State.powerUp cfg rom inp).rawpAt i = none ∧ (State.powerUp cfg rom inp).rawtAt i = none
      ∧ (State.powerUp cfg rom inp).validAt i = none ∧ (State.powerUp cfg rom inp).publishedAt i = none := by
  have unwritten {α : Type} : (List.replicate cfg.n (none : Option α)).getD i none = none := by simp
  exact ⟨unwritten, unwritten, unwritten, unwritten, unwritten, unwritten⟩

/-! ### The invariants after reset -/

theorem shaped_powerUp : Shaped (State.powerUp cfg rom inp) := by
  simp [Shaped, State.powerUp]

theorem singleSelection_powerUp : SingleSelection (State.powerUp cfg rom inp) := by
  intro i j hi
  rw [selected_powerUp] at hi
  cases hi

theorem readingsLegal_powerUp : ReadingsLegal (State.powerUp cfg rom inp) := by
  intro x hx
  simp [State.powerUp] at hx

theorem holdsOwned_powerUp : HoldsOwned (State.powerUp cfg rom inp) :=
  holdsOwned_of_idle_bus rfl (Nat.zero_le 8) (absurd rfl) (by simp [State.powerUp]) (by simp [State.powerUp])

theorem turnUnused_powerUp : TurnUnused (State.powerUp cfg rom inp) :=
  fun _ => ⟨rfl, rfl, fun _ => List.eq_of_mem_replicate, fun _ => List.eq_of_mem_replicate⟩

end

/-- R7's defaults meet R10, whatever the OPEN parameters are. -/
theorem configOk_board : configOk Config.board = true := by decide

end Sys2Proof.Machine
end

section
/-!
SUPPORT. The value LED drives where it shows the position word alone (R602, R603).
-/

namespace Sys2Proof.Machine

open Sys2Proof

variable {s : State} {v0 : Bool}

theorem State.indicatorValue_eq_position (hpolicy : s.cfg.mode = .singleTurn ∨ s.cfg.ledPolicy = .positionOnly)
    (h : s.vPosition = some v0) : s.indicatorValue = some v0 := by
  rw [State.indicatorValue_of_position_written h, if_neg]
  rintro ⟨hmulti, hboth⟩
  simp [hmulti, hboth] at hpolicy

end Sys2Proof.Machine
end

section
/-!
PROOFS. The obligations on reset and on the orders that the ROM keeps (70_reset_and_hazards.md): the state after reset, CHK before
LED and NRM, and the delay after a publication.
-/

namespace Sys2Proof.Proofs

open Sys2Proof Sys2Proof.Machine

/-- Settles O38: what the register arrays, the byte cells and the flags read after reset; the other cells are given. -/
theorem resetLeavesTheTable : Obligations.ResetLeavesTheTable := by
  intro cfg rom inp
  refine ⟨rfl, rfl, rfl, fun i => ?_, rfl, rfl, rfl, rfl, byteAt_powerUp cfg rom inp, validity_powerUp cfg rom inp,
    entries_powerUp cfg rom inp, rfl, rfl, rfl⟩
  have unlit := lit_powerUp cfg rom inp i
  exact ⟨selected_powerUp cfg rom inp i, selectLevel_powerUp cfg rom inp i, unlit, unlit⟩

/-- Settles O39: `RESET` is answered without a fetch, so neither a hold nor a recorded fault keeps it back. -/
theorem resetPinWorksInEveryState : Obligations.ResetPinWorksInEveryState :=
  fun _ _ => rfl

/-- Settles O40: each invariant after reset, and R10's conditions on the defaults of R7. -/
theorem resetMeetsTheInvariants : Obligations.ResetMeetsTheInvariants := by
  have invariants (cfg : Config) (rom : List Word) (inp : Inputs) :
      Shaped (State.powerUp cfg rom inp) ∧ SingleSelection (State.powerUp cfg rom inp)
        ∧ ReadingsLegal (State.powerUp cfg rom inp) ∧ HoldsOwned (State.powerUp cfg rom inp)
        ∧ TurnUnused (State.powerUp cfg rom inp) ∧ Safe (State.powerUp cfg rom inp) :=
    ⟨shaped_powerUp _ _ _, singleSelection_powerUp _ _ _, readingsLegal_powerUp _ _ _, holdsOwned_powerUp _ _ _,
      turnUnused_powerUp _ _ _, rfl⟩
  obtain ⟨shaped, single, legal, holds, unused, safe⟩ := invariants Config.board (buildRom Config.board) (Config.freeInputs 0)
  exact ⟨invariants, shaped, single, legal, holds, unused, safe, configOk_board⟩

/-- Settles O28: CHK writes `V[0]` whatever the parity, LED shows it alone under the hypothesis, and NRM stores by it. -/
theorem checkLedNormalizePosition : Obligations.CheckLedNormalizePosition := by
  intro s b1 b0 ⟨_, hled, hpos, _, hrawp, _⟩ hch hbytes hpolicy
  have hok : s.channelOk = true := s.channelOk_iff.2 hch
  have hmode : turnForbidden s.cfg .position = false := (turnForbidden_eq_false_iff _ _).2 (.inl rfl)
  have hword : s.word .position = some (b1 ++ b0) := by simp [State.word, State.byteAt, hbytes]
  obtain ⟨reading, raw⟩ := s.readingsAt_putReading_position_self s.channel (normalize (b1 ++ b0) (parityValid (b1 ++ b0)))
    (b1 ++ b0) (hpos ▸ hch) (hrawp ▸ hch)
  refine ⟨_, _, _, exec_chk_of_word hmode hword, exec_led_of_written hok (State.indicatorValue_eq_position hpolicy rfl),
    exec_nrm_of_written hok hmode hword rfl, ?_, reading, raw, ?_, rfl⟩
  · exact s.lit_putIndicator_self s.channel (parityValid (b1 ++ b0)) (hled ▸ hch)
  · simp [BitVec.add_assoc]

/-- Settles O58: a PUB that completes is followed by WAIT CYCLE, and a select is made by a CSA. -/
theorem cycleDelayTime : Obligations.CycleDelayTime := by
  intro cfg inp now done rest s t hcfg htick hrun hfetch hstep hmoves before t2 j after htrace
  have start := running_poweredUp cfg inp
  have hs := start.run hrun
  obtain ⟨cycle, -, stage⟩ := (InCycle.run hcfg done _ [] start (inCycle_poweredUp cfg inp) hrun).cycle
  obtain ⟨u, hu, rfl⟩ := stepWith_cases hstep
  have held := hs.heldFor_of_completed_pub hcfg stage hfetch hu hmoves now
  have bound := (countdown_heldFor_select ⟨hcfg, htick⟩).le_stamp rest (u.drive now) 0 (hs.next hu now).toOnRom (t2, .csOn j)
    (by simp [htrace]) ⟨j, rfl⟩
  rwa [held, zero_add] at bound

end Sys2Proof.Proofs
end
